-- ==== Sys2Proof/Word.lean ====
section
/-! DEFINITION. The word types of the core: the 32-bit host word and the byte (spec/00_scope.md R6, R7). -/

namespace Sys2Proof

/-- A 32-bit host word: a command word, a register's value on the bus (R6, `BUS_WIDTH`). -/
abbrev Word := BitVec 32

/-- An 8-bit byte: a frame-buffer byte, a data operand (R6, R8). -/
abbrev Byte := BitVec 8

end Sys2Proof
end

