-- ==== Sys2Proof/Config.lean ====
section
/-! DEFINITION. The parameters of the core (spec/00_scope.md R6). `base` is the one the spec leaves OPEN (D3). -/

namespace Sys2Proof

/-- `BASE`, the host address of window offset 0: OPEN in the spec (D3), so it has no body; no rule depends on it
(notes/assumptions/9.md). -/
opaque Config.base : Nat

/-- `MAX_N`, the largest packed-frame count (R6). -/
def Config.maxN : Nat := 255

/-- `GROUP`, bits per packed byte (R6). -/
def Config.group : Nat := 8

/-- `MAX_BITS`, the largest packable sequence: 8 x 255 (R6). -/
def Config.maxBits : Nat := 2040

/-- `KMAX`, the most bits one PACK.BITS or UNPACK.BITS moves (R6). -/
def Config.kMax : Nat := 8

/-- `FBUF_BYTES`, the frame buffer's size (R6). -/
def Config.fbufBytes : Nat := 256

/-- `WINDOW_BYTES`, the host window's size (R6). -/
def Config.windowBytes : Nat := 512

/-- `CRC_POLY`, the reflected polynomial (R6). -/
def Config.crcPoly : BitVec 16 := 0xA001#16

/-- `CRC_SEED` (R6). -/
def Config.crcSeed : BitVec 16 := 0xFFFF#16

end Sys2Proof
end

