-- ==== Sys2Proof/Syntax.lean ====
section
/-! DEFINITION. The 14 commands of the core (spec/30_encoding.md R83, R88), one constructor per row of
spec/opcode_table.json, and their mnemonics. -/

namespace Sys2Proof

/-- The opcode map's mnemonics, in its order (R83). -/
inductive Mnemonic where
  | packReset | packBits | packFinish
  | unpackStart | unpackBits
  | crcInit | crcByte | crcCheck
  | lrcInit | lrcByte | lrcCheck
  | ckInit | ckByte | ckFrame
  deriving DecidableEq, Repr

/-- A command with its operands as the assembler writes them (R88): `k` is the count of bits, 1 to 8
(`Instr.wellFormed`), `d` the data byte. -/
inductive Instr where
  /-- PACK.RESET (R103) -/
  | packReset
  /-- PACK.BITS k, d (R105) -/
  | packBits (k : Nat) (d : Byte)
  /-- PACK.FINISH (R106) -/
  | packFinish
  /-- UNPACK.START (R108) -/
  | unpackStart
  /-- UNPACK.BITS k (R109) -/
  | unpackBits (k : Nat)
  /-- CRC.INIT (R144) -/
  | crcInit
  /-- CRC.BYTE d (R146) -/
  | crcByte (d : Byte)
  /-- CRC.CHECK (R147) -/
  | crcCheck
  /-- LRC.INIT (R171) -/
  | lrcInit
  /-- LRC.BYTE d (R173) -/
  | lrcByte (d : Byte)
  /-- LRC.CHECK (R174) -/
  | lrcCheck
  /-- CK.INIT (R191) -/
  | ckInit
  /-- CK.BYTE d (R192) -/
  | ckByte (d : Byte)
  /-- CK.FRAME (R193) -/
  | ckFrame
  deriving DecidableEq, Repr

/-- The opcode-map row a command belongs to. -/
def Instr.mnemonic : Instr → Mnemonic
  | .packReset => .packReset
  | .packBits _ _ => .packBits
  | .packFinish => .packFinish
  | .unpackStart => .unpackStart
  | .unpackBits _ => .unpackBits
  | .crcInit => .crcInit
  | .crcByte _ => .crcByte
  | .crcCheck => .crcCheck
  | .lrcInit => .lrcInit
  | .lrcByte _ => .lrcByte
  | .lrcCheck => .lrcCheck
  | .ckInit => .ckInit
  | .ckByte _ => .ckByte
  | .ckFrame => .ckFrame

end Sys2Proof
end

