-- ==== Sys2Proof/WellFormed.lean ====
section
/-! DEFINITION. Which commands are well formed: the count `k` is 1 to 8 (spec/30_encoding.md R82, R88). -/

namespace Sys2Proof

/-- `k` is a count from 1 to `KMAX` = 8 (R82). -/
def countOk (k : Nat) : Bool := decide (1 ≤ k) && decide (k ≤ Config.kMax)

/-- The assembler's operand check (R88). `d` is a byte by its type. -/
def Instr.wellFormed : Instr → Bool
  | .packBits k _ => countOk k
  | .unpackBits k => countOk k
  | .packReset | .packFinish | .unpackStart => true
  | .crcInit | .crcByte _ | .crcCheck => true
  | .lrcInit | .lrcByte _ | .lrcCheck => true
  | .ckInit | .ckByte _ | .ckFrame => true

end Sys2Proof
end

