-- ==== Sys2Proof/Decode.lean ====
section
/-! DEFINITION. The decoder and the encoder of command words (spec/30_encoding.md R80 to R86). A command is one
32-bit word on the bus and is never stored (R62), so the decoder takes the word itself; it is total on all 2^32. -/

namespace Sys2Proof

/-- Why a word is no command (R84). The core reports IllegalCommand whichever it is (notes/assumptions/11.md). -/
inductive IllegalReason where
  /-- OP is not in the opcode map: R84(a). -/
  | unlistedOpcode
  /-- OP is listed and RSV is not zero: R84(b). -/
  | reservedNotZero
  /-- OP is listed, RSV is zero, and D is not zero although the command has no D operand: R84(c). -/
  | unusedD
  /-- OP is listed, RSV and D are as they must be, and KM1 is not zero although unused: R84(d). -/
  | unusedKM1
  deriving DecidableEq, Repr

/-- OP, bits 7:0 (R80). -/
def opField (w : Word) : BitVec 8 := w.extractLsb' 0 8

/-- D, bits 15:8, the operand `d` (R80, R82). -/
def dField (w : Word) : Byte := w.extractLsb' 8 8

/-- KM1, bits 18:16 (R80). -/
def km1Field (w : Word) : BitVec 3 := w.extractLsb' 16 3

/-- RSV, bits 31:19 (R80). -/
def rsvField (w : Word) : BitVec 13 := w.extractLsb' 19 13

/-- The operand `k`: KM1 + 1, a count from 1 to 8 (R81, R82). -/
def kOperand (w : Word) : Nat := (km1Field w).toNat + 1

/-- One row of the opcode map (R83): a word selects it when its bits under `mask` are `bits`. -/
structure OpRow where
  mnemonic : Mnemonic
  bits : Word
  mask : Word
  deriving DecidableEq, Repr

/-- `(w & mask) = match` (R81, R83). -/
def OpRow.selects (r : OpRow) (w : Word) : Bool := w &&& r.mask == r.bits

/-- The packer's and unpacker's rows of the opcode map (R83). -/
def opcodeMapBits : List OpRow :=
  [ ⟨.packReset, 0x00000001#32, 0xFFFFFFFF#32⟩,
    ⟨.packBits, 0x00000002#32, 0xFFF800FF#32⟩,
    ⟨.packFinish, 0x00000003#32, 0xFFFFFFFF#32⟩,
    ⟨.unpackStart, 0x00000008#32, 0xFFFFFFFF#32⟩,
    ⟨.unpackBits, 0x00000009#32, 0xFFF8FFFF#32⟩ ]

/-- The checksum engines' and controller's rows of the opcode map (R83). -/
def opcodeMapChecks : List OpRow :=
  [ ⟨.crcInit, 0x00000010#32, 0xFFFFFFFF#32⟩,
    ⟨.crcByte, 0x00000011#32, 0xFFFF00FF#32⟩,
    ⟨.crcCheck, 0x00000012#32, 0xFFFFFFFF#32⟩,
    ⟨.lrcInit, 0x00000018#32, 0xFFFFFFFF#32⟩,
    ⟨.lrcByte, 0x00000019#32, 0xFFFF00FF#32⟩,
    ⟨.lrcCheck, 0x0000001A#32, 0xFFFFFFFF#32⟩,
    ⟨.ckInit, 0x00000020#32, 0xFFFFFFFF#32⟩,
    ⟨.ckByte, 0x00000021#32, 0xFFFF00FF#32⟩,
    ⟨.ckFrame, 0x00000022#32, 0xFFFFFFFF#32⟩ ]

/-- The complete opcode map (R83). -/
def opcodeMap : List OpRow := opcodeMapBits ++ opcodeMapChecks

/-- The command a row names, with the operands it uses (R81, R83). -/
def Mnemonic.build (k : Nat) (d : Byte) : Mnemonic → Instr
  | .packReset => .packReset
  | .packBits => .packBits k d
  | .packFinish => .packFinish
  | .unpackStart => .unpackStart
  | .unpackBits => .unpackBits k
  | .crcInit => .crcInit
  | .crcByte => .crcByte d
  | .crcCheck => .crcCheck
  | .lrcInit => .lrcInit
  | .lrcByte => .lrcByte d
  | .lrcCheck => .lrcCheck
  | .ckInit => .ckInit
  | .ckByte => .ckByte d
  | .ckFrame => .ckFrame

/-- The commands that use the D field (R84(c)). -/
def Mnemonic.usesD : Mnemonic → Bool
  | .packBits | .crcByte | .lrcByte | .ckByte => true
  | .packReset | .packFinish | .unpackStart | .unpackBits | .crcInit | .crcCheck => false
  | .lrcInit | .lrcCheck | .ckInit | .ckFrame => false

/-- The commands that use the KM1 field (R84(d)). -/
def Mnemonic.usesKM1 : Mnemonic → Bool
  | .packBits | .unpackBits => true
  | .packReset | .packFinish | .unpackStart | .crcInit | .crcByte | .crcCheck => false
  | .lrcInit | .lrcByte | .lrcCheck | .ckInit | .ckByte | .ckFrame => false

/-- The opcode number of a command (R83). -/
def Mnemonic.op : Mnemonic → BitVec 8
  | .packReset => 0x01#8
  | .packBits => 0x02#8
  | .packFinish => 0x03#8
  | .unpackStart => 0x08#8
  | .unpackBits => 0x09#8
  | .crcInit => 0x10#8
  | .crcByte => 0x11#8
  | .crcCheck => 0x12#8
  | .lrcInit => 0x18#8
  | .lrcByte => 0x19#8
  | .lrcCheck => 0x1A#8
  | .ckInit => 0x20#8
  | .ckByte => 0x21#8
  | .ckFrame => 0x22#8

/-- The mnemonic with a given opcode number, if the map lists it (R83). -/
def listedOp (op : BitVec 8) : Option Mnemonic :=
  (opcodeMap.find? (fun r => r.mnemonic.op == op)).map OpRow.mnemonic

/-- The first ground of R84 that holds of a word no row selects. -/
def illegalReason (w : Word) : IllegalReason :=
  match listedOp (opField w) with
  | none => .unlistedOpcode
  | some m =>
    if rsvField w ≠ 0 then .reservedNotZero
    else if !m.usesD && dField w ≠ 0 then .unusedD
    else .unusedKM1

/-- The decoder (R81): the row the word selects, with its operands, or the reason no row does. -/
def decode (w : Word) : Except IllegalReason Instr :=
  match opcodeMap.find? (fun r => r.selects w) with
  | some r => .ok (r.mnemonic.build (kOperand w) (dField w))
  | none => .error (illegalReason w)

/-- A word of format C with RSV = 0 (R80). -/
def formatC (op : BitVec 8) (km1 : BitVec 3) (d : Byte) : Word :=
  op.setWidth 32 ||| (d.setWidth 32 <<< 8) ||| (km1.setWidth 32 <<< 16)

/-- The KM1 field that a count assembles to (R88). -/
def km1Of (k : Nat) : BitVec 3 := BitVec.ofNat 3 (k - 1)

/-- The encoder (R83, R88): `KM1 = k - 1`, `D = d`, all other bits zero. -/
def encode : Instr → Word
  | .packReset => formatC 0x01 0 0
  | .packBits k d => formatC 0x02 (km1Of k) d
  | .packFinish => formatC 0x03 0 0
  | .unpackStart => formatC 0x08 0 0
  | .unpackBits k => formatC 0x09 (km1Of k) 0
  | .crcInit => formatC 0x10 0 0
  | .crcByte d => formatC 0x11 0 d
  | .crcCheck => formatC 0x12 0 0
  | .lrcInit => formatC 0x18 0 0
  | .lrcByte d => formatC 0x19 0 d
  | .lrcCheck => formatC 0x1A 0 0
  | .ckInit => formatC 0x20 0 0
  | .ckByte d => formatC 0x21 0 d
  | .ckFrame => formatC 0x22 0 0

/-- The command word whose low `nbits` bits are `w` and whose other bits are 0. The table numbers a command's bits as
the word does, so the number is the word (notes/assumptions/13.md). -/
def tableWord (nbits w : Nat) : Word := BitVec.ofNat 32 (w % 2 ^ nbits)

/-- What the decoder reads from a table row's bits. -/
def decodeTableWord (nbits w : Nat) : Option Instr :=
  match decode (tableWord nbits w) with
  | .ok i => some i
  | .error _ => none

end Sys2Proof
end

