-- ==== Sys2Proof/Machine/State.lean ====
section
/-! DEFINITION. The state of the core (spec/10_state.md R22), the host's events (spec/20_memory.md R50, R59), the
reasons a step can stop, and the state after reset (spec/70_reset_and_hazards.md R240). -/

namespace Sys2Proof.Machine

/-- The frame buffer as the list of its written bytes: (index, byte) cells, indices strictly rising
(`Memory.wf`). An index not listed is a byte unwritten since reset (spec/10_state.md R34). -/
abbrev Memory := List Host.Cell

/-- The width of a host access (spec/20_memory.md R52). -/
inductive AccessWidth where
  | byte | half | word
  deriving DecidableEq, Repr

/-- One event of a run (spec/20_memory.md R59). Offsets are host addresses less `BASE` (R51, notes/assumptions/9.md). -/
inductive HostEvent where
  /-- A host read at a window offset. -/
  | read (off : Nat) (width : AccessWidth)
  /-- A host write of a value at a window offset. -/
  | write (off : Nat) (width : AccessWidth) (w : Word)
  /-- Reset (R241): asserted; `held` says that it is still asserted when the next event comes
  (notes/assumptions/6.md). -/
  | reset (held : Bool)
  deriving DecidableEq, Repr

/-- The state of the core: every element of spec/10_state.md R22 but the constant table T, the reset input, and two
fields of the model's own, `pending` and `reads`. -/
structure State where
  /-- PACC, the packer accumulator (R23). -/
  pacc : Byte
  /-- PCNT, the number of bits in PACC (R24). -/
  pcnt : BitVec 3
  /-- PN, complete packed bytes emitted in the session (R25). -/
  pn : BitVec 8
  /-- UN, the count latched by UNPACK.START (R26). -/
  un : BitVec 8
  /-- UPTR, the index of the next bit to return (R27). -/
  uptr : BitVec 11
  /-- CRC, the running value (R28). -/
  crc : BitVec 16
  /-- LSUM, the running sum (R29). -/
  lsum : Byte
  /-- EXPECT, the expected check value (R30). -/
  expect : BitVec 16
  /-- RESULT, what the last successful returning command returned (R31). -/
  result : Word
  /-- FLEN, the number of valid frame-buffer bytes (R32). -/
  flen : BitVec 9
  /-- STATUS.ERR, the five sticky error bits (R37). -/
  err : BitVec 5
  /-- STATUS.LAST, the outcome of the last command (R37). -/
  last : BitVec 3
  /-- FBUF, the frame buffer (R34). -/
  fbuf : Memory
  /-- The reset input is still asserted (spec/70_reset_and_hazards.md R241). -/
  resetHeld : Bool
  /-- The model's own: the host's events not yet performed, oldest first (notes/assumptions/1.md). -/
  pending : List HostEvent
  /-- The model's own: the values the host's reads returned, oldest first (notes/assumptions/2.md). -/
  reads : List Word
  deriving DecidableEq, Repr

/-- Faults of the model (spec/60_exceptions.md R224). An error of the core is none of these: it is a next state. -/
inductive Fault where
  /-- A command or a host read used FBUF byte `i`, unwritten since reset (spec/10_state.md R34). Raised by
  UNPACK.START, UNPACK.BITS, CK.FRAME and window reads. Safe: the hardware goes on with some value. -/
  | unwrittenByte (i : Nat)
  /-- A command formed the FBUF index `i`, outside 0..255. Raised by PACK.FINISH and CK.FRAME in states that no
  run reaches (spec/20_memory.md R56). Safe: it stops where the spec gives no effect (notes/assumptions/4.md). -/
  | noSuchByte (i : Nat)
  deriving DecidableEq, Repr

/-- Refusals: accesses the interface does not admit (spec/20_memory.md R52, R64), and commands with no meaning yet. -/
inductive Refusal where
  /-- A command that has no meaning yet. Raised by an arm of `exec` only; no arm raises it now. Safe. -/
  | notModelled (mnemonic : String)
  /-- An access of 8 or 16 bits (R52). Raised by `perform`. Safe: the spec gives it no effect. -/
  | accessWidth
  /-- An access at an offset that is no multiple of 4 (R52). Raised by `perform`. Safe. -/
  | misalignedAccess
  /-- An access at or above offset 0x200 (R52). Raised by `perform`. Safe. -/
  | outsideWindow
  /-- An access while reset is asserted (spec/70_reset_and_hazards.md R241). Raised by `perform`. Safe. -/
  | accessDuringReset
  deriving DecidableEq, Repr

/-- The state right after reset (spec/70_reset_and_hazards.md R240): every register at the spec's value, every FBUF
byte unwritten, reset released, and no event of the host yet. -/
def State.reset : State where
  pacc := 0x00#8
  pcnt := 0#3
  pn := 0#8
  un := 0#8
  uptr := 0#11
  crc := Config.crcSeed
  lsum := 0x00#8
  expect := 0x0000#16
  result := 0x00000000#32
  flen := 0#9
  err := 0b00000#5
  last := 0#3
  fbuf := []
  resetHeld := false
  pending := []
  reads := []

end Sys2Proof.Machine
end

