-- ==== Sys2Proof/Machine/Flags.lean ====
section
/-! DEFINITION. STATUS: the error codes, the sticky bits and LAST (spec/10_state.md R37, R46; spec/60_exceptions.md
R211 to R213). The core has no other flags. -/

namespace Sys2Proof.Machine

/-- The errors a command can raise (spec/60_exceptions.md R211). -/
inductive ErrorCode where
  | emptyInput | inputTooShort | packOverflow | unpackUnderrun | illegalCommand
  deriving DecidableEq, Repr

/-- The code written to STATUS.LAST (R211). -/
def ErrorCode.code : ErrorCode → BitVec 3
  | .emptyInput => 1#3
  | .inputTooShort => 2#3
  | .packOverflow => 3#3
  | .unpackUnderrun => 4#3
  | .illegalCommand => 5#3

/-- STATUS.ERR with only bit `code - 1` set (R211). -/
def ErrorCode.bit (e : ErrorCode) : BitVec 5 := 1#5 <<< (e.code.toNat - 1)

/-- The error action (R213): the sticky bit is set, LAST is the code, nothing else changes. -/
def State.raised (e : ErrorCode) (s : State) : State :=
  { s with err := s.err ||| e.bit, last := e.code }

/-- The success report (R212): LAST is 0. -/
def State.completed (s : State) : State := { s with last := 0#3 }

/-- The STATUS register as the host reads it (spec/20_memory.md R65): LAST in bits 10:8, ERR in bits 4:0. -/
def State.statusWord (s : State) : Word := (s.last ++ 0b000#3 ++ s.err).setWidth 32

/-- A host write of `w` to STATUS (spec/10_state.md R37): each 1 in `w[4:0]` clears its sticky bit. -/
def State.clearErr (w : Word) (s : State) : State :=
  { s with err := s.err &&& ~~~(w.extractLsb' 0 5) }

end Sys2Proof.Machine
end

