-- ==== Sys2Proof/Machine/Operands.lean ====
section
/-! DEFINITION. The operand forms (spec/30_encoding.md R82; spec/40_bit_packer.md R105, R109; spec/10_state.md R39,
R44; spec/20_memory.md R53). -/

namespace Sys2Proof.Machine

/-- The flags PACK.BITS pushes: `d[0]` to `d[k-1]`, earliest first; `d[7:k]` is ignored (R105). -/
def flagsOf (k : Nat) (d : Byte) : List Bool := (List.range k).map d.getLsbD

/-- The same flags kept in place: `d & ((1 << k) - 1)` (R105). -/
def lowFlags (k : Nat) (d : Byte) : Byte := d &&& ((1#8 <<< k) - 1#8)

/-- The FBUF index of the byte that holds bit `p` of a frame (R109): `1 + (p div 8)`. -/
def frameIndex (p : Nat) : Nat := 1 + p / Config.group

/-- Bit `p` of a frame, read from the byte that holds it (R109): bit `p mod 8`. -/
def frameBit (p : Nat) (b : Byte) : Bool := b.getLsbD (p % Config.group)

/-- The value a write of `w` leaves in FLEN (R39): `min(w[8:0], 256)`. -/
def flenOf (w : Word) : BitVec 9 := BitVec.ofNat 9 (min (w.extractLsb' 0 9).toNat Config.fbufBytes)

/-- The value a write of `w` leaves in EXPECT (R44): `w[15:0]`. -/
def expectOf (w : Word) : BitVec 16 := w.extractLsb' 0 16

/-- Byte `j` of a host word, little-endian (R53): bits `[8j+7:8j]`. -/
def byteOf (j : Nat) (w : Word) : Byte := w.extractLsb' (8 * j) 8

/-- The host word of four bytes, the first at the lowest offset (R53). -/
def wordOfBytes (b0 b1 b2 b3 : Byte) : Word :=
  b0.setWidth 32 ||| (b1.setWidth 32 <<< 8) ||| (b2.setWidth 32 <<< 16) ||| (b3.setWidth 32 <<< 24)

/-- The boolean a check returns (spec/00_scope.md R8, spec/10_state.md R31): 1 for true, 0 for false. -/
def boolWord (b : Bool) : Word := if b then 0x00000001#32 else 0x00000000#32

end Sys2Proof.Machine
end

