-- ==== Sys2Proof/Machine/Ops.lean ====
section
/-! DEFINITION. The named operations on memory and the outcomes of a command: FBUF reads and writes
(spec/20_memory.md R56, spec/10_state.md R34), raising an error (spec/60_exceptions.md R213), completing (R212), and
reset (spec/70_reset_and_hazards.md R240). The core has no trap and no return from one (R221, R222). -/

namespace Sys2Proof.Machine

/-- What an index that no cell lists reads as: no value, the byte is unwritten (R34). -/
def Memory.unlisted (_i : Nat) : Option Byte := none

/-- The byte at index `i`, or none if it is unwritten. -/
def Memory.read : Memory → Nat → Option Byte
  | [], i => Memory.unlisted i
  | (j, b) :: m, i => if i = j then some b else Memory.read m i

/-- The memory with byte `i` written, its cells kept in rising order. -/
def Memory.write : Memory → Nat → Byte → Memory
  | [], i, b => [(i, b)]
  | (j, c) :: m, i, b =>
    if i < j then (i, b) :: (j, c) :: m
    else if i = j then (i, b) :: m
    else (j, c) :: Memory.write m i b

/-- The canonical form: indices strictly rising, all of them in 0..255. -/
abbrev Memory.wf (m : Memory) : Prop :=
  m.Pairwise (fun x y => x.1 < y.1) ∧ ∀ c ∈ m, c.1 < Config.fbufBytes

/-- `FBUF[i]` read by a command or the host (R56): an unwritten byte is a fault of the model (R34). -/
def fbufRead (s : State) (i : Nat) : Except Fault Byte :=
  if i < Config.fbufBytes then
    match s.fbuf.read i with
    | some b => .ok b
    | none => .error (.unwrittenByte i)
  else .error (.noSuchByte i)

/-- `FBUF[i] <- b` (R56). -/
def fbufWrite (i : Nat) (b : Byte) (s : State) : Except Fault State :=
  if i < Config.fbufBytes then .ok { s with fbuf := s.fbuf.write i b }
  else .error (.noSuchByte i)

/-- `raise Error(code)`: the command ends with the error action (R213). The core goes on: this is a next state. -/
def raiseError (e : ErrorCode) (s : State) : Host.Outcome State Fault Refusal := .next (s.raised e)

/-- The end of a command that did not raise (spec/30_encoding.md R81): LAST is 0. A fault of the model ends the run. -/
def complete : Except Fault State → Host.Outcome State Fault Refusal
  | .ok s => .next s.completed
  | .error f => .fault f

/-- Reset (R240): every element of R22 at its reset value, every FBUF byte unwritten. The host's own records stay
(notes/assumptions/19.md). -/
def State.resetCore (s : State) : State :=
  { State.reset with resetHeld := s.resetHeld, pending := s.pending, reads := s.reads }

end Sys2Proof.Machine
end

