-- ==== Sys2Proof/Machine/Crc.lean ====
section
/-! DEFINITION. The CRC16 engine (spec/41_crc16.md R141 to R147). -/

namespace Sys2Proof.Machine

/-- One shift of the reflected polynomial (R141, R143). -/
def crcShift (v : BitVec 16) : BitVec 16 :=
  if v.getLsbD 0 then (v >>> 1) ^^^ Config.crcPoly else v >>> 1

/-- `n` shifts. -/
def crcShifts : Nat → BitVec 16 → BitVec 16
  | 0, v => v
  | n + 1, v => crcShifts n (crcShift v)

/-- The lookup table T (R141): a constant, the remainder of the candidate byte after eight shifts. It is no field of
State (notes/assumptions/7.md). -/
def crcTable (c : Byte) : BitVec 16 := crcShifts 8 (c.setWidth 16)

/-- The per-byte update by table (R145). -/
def crcNext (running : BitVec 16) (d : Byte) : BitVec 16 :=
  let index : Byte := running.extractLsb' 0 8 ^^^ d
  (running.extractLsb' 8 8).setWidth 16 ^^^ crcTable index

/-- The per-byte update by eight bit-serial feedback steps (R143), which no access can tell from `crcNext`
(notes/assumptions/8.md). -/
def crcNextSerial (running : BitVec 16) (d : Byte) : BitVec 16 :=
  crcShifts 8 (running ^^^ d.setWidth 16)

/-- CrcStep (R145). -/
def State.crcStep (d : Byte) (s : State) : State := { s with crc := crcNext s.crc d }

/-- CRC.INIT (R144). -/
def execCrcInit (s : State) : Host.Outcome State Fault Refusal :=
  complete (.ok { s with crc := Config.crcSeed })

/-- CRC.BYTE d (R146). -/
def execCrcByte (d : Byte) (s : State) : Host.Outcome State Fault Refusal :=
  complete (.ok (s.crcStep d))

/-- CRC.CHECK (R147): 16-bit equality with EXPECT. -/
def execCrcCheck (s : State) : Host.Outcome State Fault Refusal :=
  complete (.ok { s with result := boolWord (s.crc == s.expect) })

end Sys2Proof.Machine
end

