-- ==== Sys2Proof/Machine/Lrc.lean ====
section
/-! DEFINITION. The LRC engine (spec/42_lrc.md R171 to R174). -/

namespace Sys2Proof.Machine

/-- LRCV, the LRC value of a running sum: `(~LSUM + 1) & 0xFF` (R174, spec/10_state.md R29). -/
def lrcValue (sum : Byte) : Byte := ~~~sum + 1#8

/-- LrcStep (R172): 8-bit add, carry out discarded. -/
def State.lrcStep (d : Byte) (s : State) : State := { s with lsum := s.lsum + d }

/-- LRC.INIT (R171). -/
def execLrcInit (s : State) : Host.Outcome State Fault Refusal :=
  complete (.ok { s with lsum := 0x00#8 })

/-- LRC.BYTE d (R173). -/
def execLrcByte (d : Byte) (s : State) : Host.Outcome State Fault Refusal :=
  complete (.ok (s.lrcStep d))

/-- LRC.CHECK (R174): the zero-extended LRC value against all 16 bits of EXPECT. -/
def execLrcCheck (s : State) : Host.Outcome State Fault Refusal :=
  complete (.ok { s with result := boolWord ((lrcValue s.lsum).setWidth 16 == s.expect) })

end Sys2Proof.Machine
end

