-- ==== Sys2Proof/Machine/Controller.lean ====
section
/-! DEFINITION. The checksum controller's own commands (spec/43_controller.md R191 to R193). -/

namespace Sys2Proof.Machine

/-- Both engines at their seeds (R191). -/
def State.seedEngines (s : State) : State := { s with crc := Config.crcSeed, lsum := 0x00#8 }

/-- CrcStep and LrcStep of one byte (R192). -/
def State.feedBoth (d : Byte) (s : State) : State := (s.crcStep d).lrcStep d

/-- `n` frame-buffer bytes fed to both engines, from index `i` on (R193's loop). -/
def feedFrame : Nat → Nat → State → Except Fault State
  | 0, _, s => .ok s
  | n + 1, i, s => do
    let b ← fbufRead s i
    feedFrame n (i + 1) (s.feedBoth b)

/-- CK.INIT (R191). -/
def execCkInit (s : State) : Host.Outcome State Fault Refusal := complete (.ok s.seedEngines)

/-- CK.BYTE d (R192). -/
def execCkByte (d : Byte) (s : State) : Host.Outcome State Fault Refusal := complete (.ok (s.feedBoth d))

/-- CK.FRAME (R193): both checksums of FBUF[0..FLEN-1]. -/
def execCkFrame (s : State) : Host.Outcome State Fault Refusal :=
  complete (feedFrame s.flen.toNat 0 s.seedEngines)

end Sys2Proof.Machine
end

