-- ==== Sys2Proof/Machine/Packer.lean ====
section
/-! DEFINITION. The bit packer (spec/40_bit_packer.md R103 to R106). -/

namespace Sys2Proof.Machine

/-- PACK.RESET (R103). -/
def execPackReset (s : State) : Host.Outcome State Fault Refusal :=
  complete (.ok { s with pacc := 0x00#8, pcnt := 0#3, pn := 0#8 })

/-- The accumulator step AccPush (R104): the bit goes to PACC[PCNT]; the eighth bit emits the byte. -/
def accPush (b : Bool) (s : State) : Except Fault State :=
  let acc : Byte := s.pacc ||| ((BitVec.ofBool b).setWidth 8 <<< s.pcnt.toNat)
  if s.pcnt = 7#3 then do
    let s' ← fbufWrite (1 + s.pn.toNat) acc s
    .ok { s' with pn := s'.pn + 1#8, pacc := 0x00#8, pcnt := 0#3 }
  else .ok { s with pacc := acc, pcnt := s.pcnt + 1#3 }

/-- AccPush of each flag in order (R105). -/
def pushFlags : List Bool → State → Except Fault State
  | [], s => .ok s
  | b :: bs, s => do
    let s' ← accPush b s
    pushFlags bs s'

/-- The number of flags the session has accumulated: `8 x PN + PCNT` (spec/10_state.md R25). -/
def State.packed (s : State) : Nat := 8 * s.pn.toNat + s.pcnt.toNat

/-- PACK.BITS k, d (R105): all or nothing against the capacity of 2040 flags. -/
def execPackBits (k : Nat) (d : Byte) (s : State) : Host.Outcome State Fault Refusal :=
  if s.packed + k > Config.maxBits then raiseError .packOverflow s
  else complete (pushFlags (flagsOf k d) s)

/-- The parallel form of PACK.BITS's effect (R105), which takes all `k` flags in one step. The model runs the serial
form; this is the other side of their equivalence. -/
def State.packParallel (k : Nat) (d : Byte) (s : State) : State :=
  let v : BitVec 16 := s.pacc.setWidth 16 ||| ((lowFlags k d).setWidth 16 <<< s.pcnt.toNat)
  let n := s.pcnt.toNat + k
  if n ≥ 8 then
    { s with fbuf := s.fbuf.write (1 + s.pn.toNat) (v.extractLsb' 0 8), pn := s.pn + 1#8,
             pacc := v.extractLsb' 8 8, pcnt := BitVec.ofNat 3 (n - 8) }
  else { s with pacc := v.extractLsb' 0 8, pcnt := BitVec.ofNat 3 n }

/-- PACK.FINISH's partial group (R106): emitted if there is one; the count of bytes `n` beside the state. -/
def flushPartial (s : State) : Except Fault (State × Nat) :=
  if s.pcnt = 0#3 then .ok (s, s.pn.toNat)
  else do
    let s' ← fbufWrite (1 + s.pn.toNat) s.pacc s
    .ok (s', s.pn.toNat + 1)

/-- PACK.FINISH's count byte, FLEN, RESULT and end of session (R106). -/
def publishFrame (n : Nat) (s : State) : Except Fault State := do
  let s' ← fbufWrite 0 (BitVec.ofNat 8 n) s
  .ok { s' with flen := BitVec.ofNat 9 (n + 1), result := BitVec.ofNat 32 n,
                pacc := 0x00#8, pcnt := 0#3, pn := 0#8 }

/-- PACK.FINISH (R106). -/
def execPackFinish (s : State) : Host.Outcome State Fault Refusal :=
  complete (do
    let (s', n) ← flushPartial s
    publishFrame n s')

end Sys2Proof.Machine
end

