-- ==== Sys2Proof/Machine/Unpacker.lean ====
section
/-! DEFINITION. The unpacker (spec/40_bit_packer.md R108, R109). -/

namespace Sys2Proof.Machine

/-- UNPACK.START (R108): EmptyInput before InputTooShort, and FBUF[0] is not read when FLEN = 0
(spec/60_exceptions.md R215). -/
def execUnpackStart (s : State) : Host.Outcome State Fault Refusal :=
  if s.flen = 0#9 then raiseError .emptyInput s
  else
    match fbufRead s 0 with
    | .error f => .fault f
    | .ok n =>
      if s.flen.toNat < n.toNat + 1 then raiseError .inputTooShort s
      else complete (.ok { s with un := n, uptr := 0#11, result := n.setWidth 32 })

/-- UREM, the number of bits not yet returned: `8 x UN - UPTR` (spec/10_state.md R27). -/
def State.urem (s : State) : Nat := 8 * s.un.toNat - s.uptr.toNat

/-- The bits `p`, `p + 1`, ..., `p + k - 1` of the frame, the earliest in bit 0 (R109's loop). -/
def gatherBits (s : State) (p : Nat) : Nat → Except Fault Word
  | 0 => .ok 0#32
  | j + 1 => do
    let r ← gatherBits s p j
    let b ← fbufRead s (frameIndex (p + j))
    .ok (r ||| ((BitVec.ofBool (frameBit (p + j) b)).setWidth 32 <<< j))

/-- UNPACK.BITS k (R109): the bytes are read when the command runs. -/
def execUnpackBits (k : Nat) (s : State) : Host.Outcome State Fault Refusal :=
  if k > s.urem then raiseError .unpackUnderrun s
  else complete (do
    let r ← gatherBits s s.uptr.toNat k
    .ok { s with result := r, uptr := s.uptr + BitVec.ofNat 11 k })

end Sys2Proof.Machine
end

