-- ==== Sys2Proof/Machine/Dispatch.lean ====
section
/-! DEFINITION. One arm per command (spec/30_encoding.md R81, R83). -/

namespace Sys2Proof.Machine

/-- The rule of the command `i`, run on the state `s`. -/
def exec (i : Instr) (s : State) : Host.Outcome State Fault Refusal :=
  match i with
  | .packReset => Sys2Proof.Machine.execPackReset s
  | .packBits k d => Sys2Proof.Machine.execPackBits k d s
  | .packFinish => Sys2Proof.Machine.execPackFinish s
  | .unpackStart => Sys2Proof.Machine.execUnpackStart s
  | .unpackBits k => Sys2Proof.Machine.execUnpackBits k s
  | .crcInit => Sys2Proof.Machine.execCrcInit s
  | .crcByte d => Sys2Proof.Machine.execCrcByte d s
  | .crcCheck => Sys2Proof.Machine.execCrcCheck s
  | .lrcInit => Sys2Proof.Machine.execLrcInit s
  | .lrcByte d => Sys2Proof.Machine.execLrcByte d s
  | .lrcCheck => Sys2Proof.Machine.execLrcCheck s
  | .ckInit => Sys2Proof.Machine.execCkInit s
  | .ckByte d => Sys2Proof.Machine.execCkByte d s
  | .ckFrame => Sys2Proof.Machine.execCkFrame s

end Sys2Proof.Machine
end

