-- ==== Sys2Proof/Machine/Window.lean ====
section
/-! DEFINITION. The host window: which accesses are admitted, host reads and writes, the execution of a command word,
and the events of a run (spec/20_memory.md R50 to R65, spec/10_state.md R35 to R45, spec/30_encoding.md R81,
spec/70_reset_and_hazards.md R241). -/

namespace Sys2Proof.Machine

/-- The host address of a window offset (R51, R58). -/
def hostAddress (off : Nat) : Nat := Config.base + off

/-- The window offset of a host address at or above `BASE` (R51, R58). -/
def windowOffset (addr : Nat) : Option Nat := if addr < Config.base then none else some (addr - Config.base)

/-- `Execute(w)` (spec/30_encoding.md R81): IllegalCommand where no row matches, else the row's rule. -/
def execute (w : Word) (s : State) : Host.Outcome State Fault Refusal :=
  match decode w with
  | .ok i => exec i s
  | .error _ => raiseError .illegalCommand s

/-- PACKSTAT as the host reads it (spec/10_state.md R40). -/
def State.packstatWord (s : State) : Word := (s.pn ++ 0b00000#5 ++ s.pcnt ++ s.pacc).setWidth 32

/-- UNPACKSTAT as the host reads it (spec/10_state.md R41). -/
def State.unpackstatWord (s : State) : Word := (s.un ++ 0b00000#5 ++ s.uptr).setWidth 32

/-- The LRC register as the host reads it (spec/10_state.md R43). -/
def State.lrcWord (s : State) : Word := (lrcValue s.lsum ++ s.lsum).setWidth 32

/-- A read of a register offset (R65); reserved offsets read as zero (spec/10_state.md R45). -/
def registerRead (off : Nat) (s : State) : Word :=
  if off = 0x004 then s.statusWord
  else if off = 0x008 then s.result
  else if off = 0x00C then s.flen.setWidth 32
  else if off = 0x010 then s.packstatWord
  else if off = 0x014 then s.unpackstatWord
  else if off = 0x018 then s.crc.setWidth 32
  else if off = 0x01C then s.lrcWord
  else if off = 0x020 then s.expect.setWidth 32
  else 0x00000000#32

/-- MemRead of the FBUF window word whose first byte is FBUF[i] (R55). -/
def windowRead (i : Nat) (s : State) : Except Fault Word := do
  let b0 ← fbufRead s i
  let b1 ← fbufRead s (i + 1)
  let b2 ← fbufRead s (i + 2)
  let b3 ← fbufRead s (i + 3)
  .ok (wordOfBytes b0 b1 b2 b3)

/-- MemWrite of the FBUF window word whose first byte is FBUF[i] (R55). -/
def windowWrite (i : Nat) (w : Word) (s : State) : Except Fault State := do
  let s ← fbufWrite i (byteOf 0 w) s
  let s ← fbufWrite (i + 1) (byteOf 1 w) s
  let s ← fbufWrite (i + 2) (byteOf 2 w) s
  fbufWrite (i + 3) (byteOf 3 w) s

/-- HostRead (R65), for an admitted offset. -/
def hostRead (off : Nat) (s : State) : Except Fault Word :=
  if off ≥ 0x100 then windowRead (off - 0x100) s else .ok (registerRead off s)

/-- HostWrite (R65), for an admitted offset. Writes to read-only and reserved offsets have no effect. -/
def hostWrite (off : Nat) (w : Word) (s : State) : Host.Outcome State Fault Refusal :=
  if off ≥ 0x100 then
    match windowWrite (off - 0x100) w s with
    | .ok s' => .next s'
    | .error f => .fault f
  else if off = 0x000 then execute w s
  else if off = 0x004 then .next (s.clearErr w)
  else if off = 0x00C then .next { s with flen := flenOf w }
  else if off = 0x020 then .next { s with expect := expectOf w }
  else .next s

/-- Why an access is not admitted (R52; spec/70_reset_and_hazards.md R241), if it is not (notes/assumptions/5.md). -/
def accessProblem (off : Nat) (width : AccessWidth) (s : State) : Option Refusal :=
  if s.resetHeld then some .accessDuringReset
  else if width ≠ .word then some .accessWidth
  else if off % 4 ≠ 0 then some .misalignedAccess
  else if off ≥ Config.windowBytes then some .outsideWindow
  else none

/-- One event of a run (R59). A read's value goes to `reads`. -/
def perform (e : HostEvent) (s : State) : Host.Outcome State Fault Refusal :=
  match e with
  | .read off width =>
    match accessProblem off width s with
    | some r => .refused r
    | none =>
      match hostRead off s with
      | .ok v => .next { s with reads := s.reads ++ [v] }
      | .error f => .fault f
  | .write off width w =>
    match accessProblem off width s with
    | some r => .refused r
    | none => hostWrite off w s
  | .reset held => .next { s.resetCore with resetHeld := held }

/-- Go on with `f` from a next state; a fault or a refusal ends the run. -/
def andThen (o : Host.Outcome State Fault Refusal) (f : State → Host.Outcome State Fault Refusal) :
    Host.Outcome State Fault Refusal :=
  match o with
  | .next s => f s
  | .fault r => .fault r
  | .refused r => .refused r

/-- The events of a run, in order (R59). -/
def performAll : List HostEvent → State → Host.Outcome State Fault Refusal
  | [], s => .next s
  | e :: es, s => andThen (perform e s) (performAll es)

/-- Commands executed one after another, with no other access between them. -/
def execAll : List Instr → State → Host.Outcome State Fault Refusal
  | [], s => .next s
  | i :: is, s => andThen (exec i s) (execAll is)

/-- Perform the oldest pending event; with none pending the core is idle and holds its state
(spec/60_exceptions.md R230; notes/assumptions/12.md). -/
def performPending (s : State) : Host.Outcome State Fault Refusal :=
  match s.pending with
  | [] => .next s
  | e :: es => perform e { s with pending := es }

/-- `s` with the command word `w` as the next host access, a write to CMD with reset released
(notes/assumptions/1.md). -/
def State.withCommand (w : Word) (s : State) : State :=
  { s with resetHeld := false, pending := .write 0x000 .word w :: s.pending }

end Sys2Proof.Machine
end

