-- ==== Sys2Proof/Machine/Step.lean ====
section
/-! DEFINITION. One step of the machine: the next event of the run (spec/20_memory.md R59,
spec/70_reset_and_hazards.md R250). -/

namespace Sys2Proof.Machine

/-- One step: the host's next access, with all of a command's effects, or a reset; idle if there is none. -/
def step (s : State) : Host.Outcome State Fault Refusal := performPending s

/-- `s` with the command of a table row's bits as its next event (notes/assumptions/1.md, 13.md). -/
def State.withFetchWord (s : State) (nbits w : Nat) : State := s.withCommand (tableWord nbits w)

end Sys2Proof.Machine
end

