-- ==== Sys2Proof/Machine/Asm.lean ====
section
/-! DEFINITION. The assembler's lines, its pseudo-instructions and the host-program words (spec/30_encoding.md R88 to
R90). A line is a list of characters; it assembles to the command words of its CMD writes (notes/assumptions/16.md). -/

namespace Sys2Proof.Machine

/-- The name of a mnemonic (R83). -/
def mnemonicName : Mnemonic → String
  | .packReset => "PACK.RESET"
  | .packBits => "PACK.BITS"
  | .packFinish => "PACK.FINISH"
  | .unpackStart => "UNPACK.START"
  | .unpackBits => "UNPACK.BITS"
  | .crcInit => "CRC.INIT"
  | .crcByte => "CRC.BYTE"
  | .crcCheck => "CRC.CHECK"
  | .lrcInit => "LRC.INIT"
  | .lrcByte => "LRC.BYTE"
  | .lrcCheck => "LRC.CHECK"
  | .ckInit => "CK.INIT"
  | .ckByte => "CK.BYTE"
  | .ckFrame => "CK.FRAME"

/-- Every mnemonic of the opcode map. -/
def allMnemonics : List Mnemonic := opcodeMap.map OpRow.mnemonic

/-- The pseudo-instructions (R89). -/
inductive Pseudo where
  | packBit (b : Bool)
  | packByte (d : Byte)
  | unpackBit
  | unpackByte
  | crcBytes (ds : List Byte)
  | lrcBytes (ds : List Byte)
  | ckBytes (ds : List Byte)
  deriving DecidableEq, Repr

/-- The commands a pseudo-instruction stands for (R89). -/
def Pseudo.expand : Pseudo → List Instr
  | .packBit b => [.packBits 1 ((BitVec.ofBool b).setWidth 8)]
  | .packByte d => [.packBits 8 d]
  | .unpackBit => [.unpackBits 1]
  | .unpackByte => [.unpackBits 8]
  | .crcBytes ds => ds.map .crcByte
  | .lrcBytes ds => ds.map .lrcByte
  | .ckBytes ds => ds.map .ckByte

/-- The value of a decimal digit. -/
def decDigit (c : Char) : Option Nat :=
  if '0' ≤ c ∧ c ≤ '9' then some (c.toNat - '0'.toNat) else none

/-- The value of a hexadecimal digit. -/
def hexDigit (c : Char) : Option Nat :=
  if 'A' ≤ c ∧ c ≤ 'F' then some (c.toNat - 'A'.toNat + 10)
  else if 'a' ≤ c ∧ c ≤ 'f' then some (c.toNat - 'a'.toNat + 10)
  else decDigit c

/-- The number a list of digits writes, going on from `acc`. -/
def digits (digit : Char → Option Nat) (base : Nat) : List Char → Nat → Option Nat
  | [], acc => some acc
  | c :: cs, acc =>
    match digit c with
    | some v => digits digit base cs (acc * base + v)
    | none => none

/-- A decimal number (R88). -/
def parseDec : List Char → Option Nat
  | [] => none
  | c :: cs => digits decDigit 10 (c :: cs) 0

/-- A number, decimal or hexadecimal with `0x` (R88). -/
def parseNumber : List Char → Option Nat
  | '0' :: 'x' :: c :: cs => digits hexDigit 16 (c :: cs) 0
  | cs => parseDec cs

/-- The operand `k`: a decimal count, 1 to 8 (R88). -/
def parseCount (cs : List Char) : Option Nat :=
  match parseDec cs with
  | some k => if countOk k then some k else none
  | none => none

/-- The operand `d`: a byte value, 0 to 255 (R88). -/
def parseByte (cs : List Char) : Option Byte :=
  match parseNumber cs with
  | some n => if n < 256 then some (BitVec.ofNat 8 n) else none
  | none => none

/-- The operands of a pseudo-instruction of any number of bytes (R89). No operand, the bare name, is no byte and so no
command. R89 states `n >= 0` for CRC.BYTES only; that LRC.BYTES and CK.BYTES take no operand too is a DESIGN CHOICE
(notes/assumptions/16.md). -/
def parseBytes : List (List Char) → Option (List Byte)
  | [] => some []
  | t :: ts =>
    match parseByte t, parseBytes ts with
    | some d, some ds => some (d :: ds)
    | _, _ => none

/-- The mnemonic's characters, and the rest of the line after one space; none where the line has no operands. -/
def splitMnemonic : List Char → List Char × Option (List Char)
  | [] => ([], none)
  | ' ' :: cs => ([], some cs)
  | c :: cs =>
    let (m, rest) := splitMnemonic cs
    (c :: m, rest)

/-- Operands are separated by a comma and a space (R88). -/
def splitOperands : List Char → List (List Char)
  | [] => [[]]
  | ',' :: ' ' :: cs => [] :: splitOperands cs
  | c :: cs =>
    match splitOperands cs with
    | [] => [[c]]
    | t :: ts => (c :: t) :: ts

/-- A command of the opcode map from its operands (R88); a missing or extra operand is rejected. -/
def assembleCommand (m : Mnemonic) (ops : List (List Char)) : Option Instr :=
  match m.usesKM1, m.usesD, ops with
  | true, true, [tk, td] =>
    match parseCount tk, parseByte td with
    | some k, some d => some (m.build k d)
    | _, _ => none
  | true, false, [tk] => (parseCount tk).map (fun k => m.build k 0)
  | false, true, [td] => (parseByte td).map (fun d => m.build 1 d)
  | false, false, [] => some (m.build 1 0)
  | _, _, _ => none

/-- A pseudo-instruction from its name and operands (R89). -/
def assemblePseudo (name : List Char) (ops : List (List Char)) : Option Pseudo :=
  if name = "PACK.BIT".toList then
    match ops with
    | [t] =>
      match parseNumber t with
      | some 0 => some (.packBit false)
      | some 1 => some (.packBit true)
      | _ => none
    | _ => none
  else if name = "PACK.BYTE".toList then
    match ops with
    | [t] => (parseByte t).map .packByte
    | _ => none
  else if name = "UNPACK.BIT".toList then (if ops = [] then some .unpackBit else none)
  else if name = "UNPACK.BYTE".toList then (if ops = [] then some .unpackByte else none)
  else if name = "CRC.BYTES".toList then (parseBytes ops).map .crcBytes
  else if name = "LRC.BYTES".toList then (parseBytes ops).map .lrcBytes
  else if name = "CK.BYTES".toList then (parseBytes ops).map .ckBytes
  else none

/-- The words a line assembles to, or none where the assembler rejects it (R88, R89). `.word value` is the raw word. -/
def assembleLine (line : List Char) : Option (List Word) :=
  let (name, rest) := splitMnemonic line
  let ops := match rest with
    | none => []
    | some cs => splitOperands cs
  match allMnemonics.find? (fun m => (mnemonicName m).toList = name) with
  | some m => (assembleCommand m ops).map (fun i => [encode i])
  | none =>
    match assemblePseudo name ops with
    | some p => some (p.expand.map encode)
    | none =>
      if name = ".word".toList then
        match ops with
        | [t] =>
          match parseNumber t with
          | some n => if n < 2 ^ 32 then some [BitVec.ofNat 32 n] else none
          | none => none
        | _ => none
      else none

/-- The decimal digits of a number below 1000, most significant first. -/
def decimalText (n : Nat) : List Char :=
  let d (x : Nat) : Char := Char.ofNat ('0'.toNat + x)
  if n < 10 then [d n]
  else if n < 100 then [d (n / 10), d (n % 10)]
  else [d (n / 100), d (n / 10 % 10), d (n % 10)]

/-- A command as a line of assembly text (R88): the mnemonic, then its operands in decimal, separated by a comma and a
space. -/
def asmText (i : Instr) : List Char :=
  let name := (mnemonicName i.mnemonic).toList
  match i with
  | .packBits k d => name ++ ' ' :: decimalText k ++ ',' :: ' ' :: decimalText d.toNat
  | .unpackBits k => name ++ ' ' :: decimalText k
  | .crcByte d | .lrcByte d | .ckByte d => name ++ ' ' :: decimalText d.toNat
  | .packReset | .packFinish | .unpackStart | .crcInit | .crcCheck | .lrcInit | .lrcCheck | .ckInit | .ckFrame => name

/-- `CMD asm` of a host program (R90): the encoding of the command written to offset 0x000. -/
def cmd (i : Instr) : HostEvent := .write 0x000 .word (encode i)

/-- `W off, v` of a host program (R90). -/
def hostW (off : Nat) (v : Word) : HostEvent := .write off .word v

/-- `R off` of a host program (R90). -/
def hostR (off : Nat) : HostEvent := .read off .word

/-- `CMD asm` for a line of assembly text, pseudo-instructions among them: one CMD write for each word (R90). -/
def cmdLine (line : List Char) : Option (List HostEvent) :=
  (assembleLine line).map (fun ws => ws.map (fun w => .write 0x000 .word w))

end Sys2Proof.Machine
end

