-- ==== Sys2Proof/Safety.lean ====
section
/-! DEFINITION. What claims are stated in: the legal states of spec/10_state.md R22 to R32, the next state an outcome
answers, the parts of the core, and the sequences of commands the correspondence rules speak of. -/

namespace Sys2Proof.Machine

/-- PACC >> PCNT = 0: the bits above the partial group are zero (R23). -/
abbrev State.AccClean (s : State) : Prop := s.pacc >>> s.pcnt.toNat = 0#8

/-- `8 x PN + PCNT <= 2040` (R25). -/
abbrev State.PackFits (s : State) : Prop := s.packed ≤ Config.maxBits

/-- `UPTR <= 8 x UN` (R27). -/
abbrev State.UptrInFrame (s : State) : Prop := s.uptr.toNat ≤ 8 * s.un.toNat

/-- FLEN is 0 to 256 (R22, R32). -/
abbrev State.FlenLegal (s : State) : Prop := s.flen.toNat ≤ Config.fbufBytes

/-- LAST is 0 to 5 (R22; spec/93_implementation_defined.md I5). -/
abbrev State.LastLegal (s : State) : Prop := s.last.toNat ≤ 5

/-- The invariant of the core: every element legal (R22), the frame buffer in canonical form. -/
abbrev State.Inv (s : State) : Prop :=
  s.AccClean ∧ s.PackFits ∧ s.UptrInFrame ∧ s.FlenLegal ∧ s.LastLegal ∧ s.fbuf.wf

/-- The packer holds an empty session (spec/40_bit_packer.md R103): no flag accumulated, no byte emitted. -/
abbrev State.PackEmpty (s : State) : Prop := s.pacc = 0x00#8 ∧ s.pcnt = 0#3 ∧ s.pn = 0#8

/-- The next state an outcome answers, if it answers one. -/
def nextOf : Host.Outcome State Fault Refusal → Option State
  | .next s => some s
  | .fault _ => none
  | .refused _ => none

/-- An outcome with its next state changed by `f`. -/
def mapNext (f : State → State) : Host.Outcome State Fault Refusal → Host.Outcome State Fault Refusal
  | .next s => .next (f s)
  | .fault r => .fault r
  | .refused r => .refused r

/-- The frame buffer holds the bytes `bs` from index `i` on. -/
def Memory.holds (m : Memory) (i : Nat) (bs : List Byte) : Prop :=
  ∀ j, j < bs.length → m.read (i + j) = bs[j]?

/-- The parts of the core a command belongs to (spec/30_encoding.md R83). -/
inductive Part where
  | packer | unpacker | crc | lrc | controller
  deriving DecidableEq, Repr

/-- The part a command belongs to (spec/30_encoding.md R83). -/
def partOf : Instr → Part
  | .packReset | .packBits _ _ | .packFinish => .packer
  | .unpackStart | .unpackBits _ => .unpacker
  | .crcInit | .crcByte _ | .crcCheck => .crc
  | .lrcInit | .lrcByte _ | .lrcCheck => .lrc
  | .ckInit | .ckByte _ | .ckFrame => .controller

/-- The packer and the unpacker, as against the checksum part (spec/43_controller.md R190). -/
def isBitCommand (i : Instr) : Bool :=
  match partOf i with
  | .packer | .unpacker => true
  | .crc | .lrc | .controller => false

/-- The byte a command feeds to the CRC engine (spec/41_crc16.md R148). -/
def fedToCrc : Instr → Option Byte
  | .crcByte d | .ckByte d => some d
  | .packReset | .packBits _ _ | .packFinish | .unpackStart | .unpackBits _ => none
  | .crcInit | .crcCheck | .lrcInit | .lrcByte _ | .lrcCheck | .ckInit | .ckFrame => none

/-- The byte a command feeds to the LRC engine (spec/42_lrc.md R175). -/
def fedToLrc : Instr → Option Byte
  | .lrcByte d | .ckByte d => some d
  | .packReset | .packBits _ _ | .packFinish | .unpackStart | .unpackBits _ => none
  | .crcInit | .crcByte _ | .crcCheck | .lrcInit | .lrcCheck | .ckInit | .ckFrame => none

/-- Commands that write CRC otherwise than by feeding it a byte. -/
def seedsCrc : Instr → Bool
  | .crcInit | .ckInit | .ckFrame => true
  | .packReset | .packBits _ _ | .packFinish | .unpackStart | .unpackBits _ => false
  | .crcByte _ | .crcCheck | .lrcInit | .lrcByte _ | .lrcCheck | .ckByte _ => false

/-- Commands that write LSUM otherwise than by feeding it a byte. -/
def seedsLrc : Instr → Bool
  | .lrcInit | .ckInit | .ckFrame => true
  | .packReset | .packBits _ _ | .packFinish | .unpackStart | .unpackBits _ => false
  | .crcInit | .crcByte _ | .crcCheck | .lrcByte _ | .lrcCheck | .ckByte _ => false

/-- The PACK.BITS commands that push chunks of flags (spec/40_bit_packer.md R107). -/
def packCommands (cs : List (Nat × Byte)) : List Instr := cs.map (fun c => .packBits c.1 c.2)

/-- The flags those commands push, in order (spec/40_bit_packer.md R107). -/
def chunkFlags (cs : List (Nat × Byte)) : List Bool := cs.flatMap (fun c => flagsOf c.1 c.2)

end Sys2Proof.Machine
end

