-- ==== Sys2Proof/Certificates/Slice0/Obligations.lean ====
section
/-! DEFINITION. The statements for the provers, from the numbered rules of spec/. -/

open Sys2Proof Sys2Proof.Machine

/-! ## Encoding -/

/-- R83, R88: a word of every command, from spec/95_test_vectors.md 2.1, decodes to the command it stands for. -/
def Obligations.SpecWordsDecode : Prop :=
  decode 0x00000001#32 = .ok .packReset ∧ decode 0x00041902#32 = .ok (.packBits 5 0x19#8) ∧
  decode 0x00000003#32 = .ok .packFinish ∧ decode 0x00000008#32 = .ok .unpackStart ∧
  decode 0x00020009#32 = .ok (.unpackBits 3) ∧ decode 0x00000010#32 = .ok .crcInit ∧
  decode 0x0000FF11#32 = .ok (.crcByte 0xFF#8) ∧ decode 0x00000012#32 = .ok .crcCheck ∧
  decode 0x00000018#32 = .ok .lrcInit ∧ decode 0x00008019#32 = .ok (.lrcByte 0x80#8) ∧
  decode 0x0000001A#32 = .ok .lrcCheck ∧ decode 0x00000020#32 = .ok .ckInit ∧
  decode 0x0000AA21#32 = .ok (.ckByte 0xAA#8) ∧ decode 0x00000022#32 = .ok .ckFrame

/-- R83, R88: decoding the word of a well-formed command gives it back, every operand at every value. -/
def Obligations.DecodeOfEncode : Prop := ∀ i : Instr, i.wellFormed = true → decode (encode i) = .ok i

/-- R81, R84: a word that decodes is the word of its command, which is well formed: no two words mean one command. -/
def Obligations.EncodeOfDecode : Prop :=
  ∀ (w : Word) (i : Instr), decode w = .ok i → i.wellFormed = true ∧ encode i = w

/-- R86: a word selects exactly one row, whose command it executes in every state, or none, and raises IllegalCommand
in every state. -/
def Obligations.EveryWordExecutesOneRowOrIsIllegal : Prop :=
  ∀ w : Word,
    (∃ r ∈ opcodeMap, r.selects w = true ∧ (∀ r' ∈ opcodeMap, r'.selects w = true → r' = r) ∧
      ∀ s : State, execute w s = exec (r.mnemonic.build (kOperand w) (dField w)) s) ∨
    ((∀ r ∈ opcodeMap, r.selects w = false) ∧
      ∀ s : State, execute w s = .next { s with err := s.err ||| 0b10000#5, last := 5#3 })

/-- R84: a word is illegal exactly on the four grounds, and executing it raises IllegalCommand. -/
def Obligations.IllegalEncodings : Prop :=
  ∀ w : Word,
    let op := (opField w).toNat
    let unlisted := op = 0x00 ∨ (0x04 ≤ op ∧ op ≤ 0x07) ∨ (0x0A ≤ op ∧ op ≤ 0x0F) ∨ (0x13 ≤ op ∧ op ≤ 0x17) ∨
      (0x1B ≤ op ∧ op ≤ 0x1F) ∨ 0x23 ≤ op
    let illegal := unlisted ∨ rsvField w ≠ 0 ∨
      (op ≠ 0x02 ∧ op ≠ 0x11 ∧ op ≠ 0x19 ∧ op ≠ 0x21 ∧ dField w ≠ 0) ∨ (op ≠ 0x02 ∧ op ≠ 0x09 ∧ km1Field w ≠ 0)
    ((∃ r, decode w = .error r) ↔ illegal) ∧
    (illegal → ∀ s : State, execute w s = .next { s with err := s.err ||| 0b10000#5, last := 5#3 })

/-- R88, R89: the line a well-formed command is written as assembles to the command's word, and the pseudo-instructions
stand for the words of their expansions. The form of the text, and that LRC.BYTES and CK.BYTES may have no byte, are the
model's choice (notes/assumptions/16.md). -/
def Obligations.AssemblerEncodes : Prop :=
  (∀ i : Instr, i.wellFormed = true → assembleLine (asmText i) = some [encode i]) ∧
  (∀ b : Bool, (Pseudo.packBit b).expand.map encode = [if b then 0x00000102#32 else 0x00000002#32]) ∧
  (∀ d : Byte, (Pseudo.packByte d).expand.map encode = [0x00070002#32 ||| (d.setWidth 32 <<< 8)]) ∧
  Pseudo.unpackBit.expand.map encode = [0x00000009#32] ∧ Pseudo.unpackByte.expand.map encode = [0x00070009#32] ∧
  (∀ ds : List Byte,
    (Pseudo.crcBytes ds).expand.map encode = ds.map (fun (d : Byte) => (0x00000011#32 ||| (d.setWidth 32 <<< 8) : Word))) ∧
  (∀ ds : List Byte,
    (Pseudo.lrcBytes ds).expand.map encode = ds.map (fun (d : Byte) => (0x00000019#32 ||| (d.setWidth 32 <<< 8) : Word))) ∧
  ∀ ds : List Byte,
    (Pseudo.ckBytes ds).expand.map encode = ds.map (fun (d : Byte) => (0x00000021#32 ||| (d.setWidth 32 <<< 8) : Word))

/-! ## Steps and runs -/

/-- R36, R81: when the next event is a CMD write of a word that decodes to `i`, a step is `i`'s rule, the event taken
off the front. -/
def Obligations.StepRunsDecodedCommand : Prop :=
  ∀ (s : State) (w : Word) (rest : List HostEvent) (i : Instr), s.resetHeld = false →
    s.pending = .write 0x000 .word w :: rest → decode w = .ok i → step s = exec i { s with pending := rest }

/-- The word placed by `withFetchWord` is what the very next step executes (notes/assumptions/1.md, 13.md). -/
def Obligations.FetchWordIsRunNext : Prop :=
  ∀ (s : State) (nbits w : Nat) (i : Instr), decodeTableWord nbits w = some i →
    step (s.withFetchWord nbits w) = exec i { s with resetHeld := false }

/-- R59: stepping through the pending events, one step an event, is performing them one after another: the state after
event `k` is the step of event `k` applied to the state after event `k - 1`. -/
def Obligations.RunIsEventsInOrder : Prop :=
  ∀ (es rest : List HostEvent) (s : State),
    Host.Core.run Sys2Proof.core es.length { s with pending := es ++ rest } = performAll es { s with pending := rest }

/-- R230, R243: with no event the core is idle and holds all its state; that a step answers then is the model's choice
(notes/assumptions/12.md). -/
def Obligations.IdleHoldsState : Prop := ∀ s : State, s.pending = [] → step s = .next s

/-! ## Reset -/

/-- R240: the reset event, in any state, leaves every element at its reset value and every FBUF byte unwritten;
State.reset is such a state, and the engines hold the values of the empty sequence. -/
def Obligations.ResetLeavesResetValues : Prop :=
  let resetValues (t : State) : Prop :=
    t.pacc = 0x00#8 ∧ t.pcnt = 0#3 ∧ t.pn = 0#8 ∧ t.un = 0#8 ∧ t.uptr = 0#11 ∧ t.crc = 0xFFFF#16 ∧ t.lsum = 0x00#8 ∧
    t.expect = 0x0000#16 ∧ t.result = 0x00000000#32 ∧ t.flen = 0#9 ∧ t.err = 0b00000#5 ∧ t.last = 0#3 ∧
    (∀ i, t.fbuf.read i = none) ∧ t.crc = computeCRC [] ∧ lrcValue t.lsum = computeLRC []
  resetValues State.reset ∧ ∀ (s : State) (held : Bool), ∃ t, perform (.reset held) s = .next t ∧ resetValues t

/-- R245: right after reset, what the checksum registers read, what PACK.FINISH makes, and that UNPACK.BITS underruns.
-/
def Obligations.ResetGivesEmptySequences : Prop :=
  hostRead 0x018 State.reset = .ok 0x0000FFFF#32 ∧ computeCRC [] = 0xFFFF#16 ∧
  hostRead 0x01C State.reset = .ok 0x00000000#32 ∧ computeLRC [] = 0#8 ∧
  (∃ t, exec .packFinish State.reset = .next t ∧ t.flen = 1#9 ∧ pack [] = [0x00#8] ∧ t.fbuf.holds 0 (pack [])) ∧
  ∀ k, 1 ≤ k → k ≤ 8 → exec (.unpackBits k) State.reset = .next (State.reset.raised .unpackUnderrun)

/-- R241: while reset is asserted every access is refused; once it is released the core accepts accesses at once. The
form of the reset event is the model's choice (notes/assumptions/6.md), and so are the refusal's name,
accessDuringReset, and that reset is tested before width, alignment and range (notes/assumptions/5.md). -/
def Obligations.AccessDuringResetIsRefused : Prop :=
  ∀ s t : State, perform (.reset true) s = .next t →
    (∀ off width, perform (.read off width) t = .refused .accessDuringReset) ∧
    (∀ off width w, perform (.write off width w) t = .refused .accessDuringReset) ∧
    ∀ u, perform (.reset false) t = .next u → ∀ off, off % 4 = 0 → off ≤ 0x1FC →
      ∀ r w, perform (.read off .word) u ≠ .refused r ∧ perform (.write off .word w) u ≠ .refused r

/-- R22 to R32: State.reset meets the invariant. -/
def Obligations.ResetMeetsInvariant : Prop := State.reset.Inv

/-- R22 to R32: every step keeps the invariant, from every state that meets it, whatever the host's next event. -/
def Obligations.StepKeepsInvariant : Prop := ∀ s t : State, s.Inv → step s = .next t → t.Inv

/-- R34 and the canonical form: two frame buffers in canonical form that read alike at every index are equal data. The
form is the model's own representation (notes/assumptions/3.md). -/
def Obligations.CanonicalMemoryIsUnique : Prop :=
  ∀ m m' : Memory, m.wf → m'.wf → (∀ i, m.read i = m'.read i) → m = m'

/-! ## The host window -/

/-- R52: an access is refused exactly when it is not an aligned 32-bit access in 0x000 to 0x1FC. -/
def Obligations.OnlyAdmittedAccessesAreServed : Prop :=
  ∀ (s : State) (off : Nat) (width : AccessWidth) (w : Word), s.resetHeld = false →
    ((∃ r, perform (.read off width) s = .refused r) ↔ ¬ (width = .word ∧ off % 4 = 0 ∧ off ≤ 0x1FC)) ∧
    ((∃ r, perform (.write off width w) s = .refused r) ↔ ¬ (width = .word ∧ off % 4 = 0 ∧ off ≤ 0x1FC))

/-- R54: a read changes nothing but the record of what it returned, and a second read returns the same value. The
record is the model's own (notes/assumptions/2.md). -/
def Obligations.ReadsHaveNoSideEffect : Prop :=
  ∀ (s t : State) (off : Nat) (width : AccessWidth), perform (.read off width) s = .next t →
    ∃ v, t = { s with reads := s.reads ++ [v] } ∧
      perform (.read off width) t = .next { t with reads := t.reads ++ [v] }

/-- R36: a CMD write executes its word; a CMD read returns zero and has no side effect. -/
def Obligations.CmdRegister : Prop :=
  ∀ (s : State) (w : Word), s.resetHeld = false →
    perform (.write 0x000 .word w) s = execute w s ∧
    perform (.read 0x000 .word) s = .next { s with reads := s.reads ++ [0x00000000#32] }

/-- R37: STATUS reads ERR in bits 4:0 and LAST in bits 10:8; a write clears the sticky bits its 1s select and nothing
else. -/
def Obligations.StatusRegister : Prop :=
  ∀ (s : State) (w : Word), s.resetHeld = false →
    perform (.read 0x004 .word) s =
      .next { s with reads := s.reads ++ [BitVec.ofNat 32 (s.err.toNat + 256 * s.last.toNat)] } ∧
    ∃ e : BitVec 5, perform (.write 0x004 .word w) s = .next { s with err := e } ∧
      ∀ i, i < 5 → e.getLsbD i = (s.err.getLsbD i && !w.getLsbD i)

/-- R38, R40, R41, R42, R43: the read-only registers' values, fields in their places; a write to any is ignored. -/
def Obligations.ReadOnlyRegisters : Prop :=
  ∀ (s : State) (w : Word), s.resetHeld = false →
    let answers (off : Nat) (v : Word) : Prop :=
      perform (.read off .word) s = .next { s with reads := s.reads ++ [v] } ∧
      perform (.write off .word w) s = .next s
    answers 0x008 s.result ∧
    answers 0x010 (BitVec.ofNat 32 (s.pacc.toNat + 2 ^ 8 * s.pcnt.toNat + 2 ^ 16 * s.pn.toNat)) ∧
    answers 0x014 (BitVec.ofNat 32 (s.uptr.toNat + 2 ^ 16 * s.un.toNat)) ∧
    answers 0x018 (BitVec.ofNat 32 s.crc.toNat) ∧
    answers 0x01C (BitVec.ofNat 32 (s.lsum.toNat + 2 ^ 8 * ((0x100 - s.lsum.toNat) % 0x100)))

/-- R39, R44: FLEN and EXPECT read zero-extended; a write of `w` sets FLEN to min(w[8:0], 256) and EXPECT to w[15:0];
both are 0 at reset. -/
def Obligations.FlenAndExpectRegisters : Prop :=
  State.reset.flen = 0#9 ∧ State.reset.expect = 0#16 ∧ ∀ (s : State) (w : Word), s.resetHeld = false →
    (perform (.read 0x00C .word) s = .next { s with reads := s.reads ++ [BitVec.ofNat 32 s.flen.toNat] } ∧
      ∃ v : BitVec 9, perform (.write 0x00C .word w) s = .next { s with flen := v } ∧
        v.toNat = min (w.toNat % 512) 256) ∧
    perform (.read 0x020 .word) s = .next { s with reads := s.reads ++ [BitVec.ofNat 32 s.expect.toNat] } ∧
    ∃ v : BitVec 16, perform (.write 0x020 .word w) s = .next { s with expect := v } ∧ v.toNat = w.toNat % 65536

/-- R45: reserved offsets read as zero and ignore writes. -/
def Obligations.ReservedOffsets : Prop :=
  ∀ (s : State) (off : Nat) (w : Word), s.resetHeld = false → 0x024 ≤ off → off ≤ 0x0FC → off % 4 = 0 →
    perform (.read off .word) s = .next { s with reads := s.reads ++ [0x00000000#32] } ∧
    perform (.write off .word w) s = .next s

/-- R55: the FBUF window. A write stores four bytes, little-endian, and leaves every other byte and element alone; a
read returns four written bytes and faults where one is unwritten. -/
def Obligations.FbufWindow : Prop :=
  ∀ (s : State) (i : Nat), s.resetHeld = false → i < 64 →
    (∀ w : Word, ∃ t, perform (.write (0x100 + 4 * i) .word w) s = .next t ∧ t = { s with fbuf := t.fbuf } ∧
      (∀ j, j < 4 → ∃ b : Byte, t.fbuf.read (4 * i + j) = some b ∧ b.toNat = w.toNat / 2 ^ (8 * j) % 256) ∧
      ∀ a, (a < 4 * i ∨ 4 * i + 4 ≤ a) → t.fbuf.read a = s.fbuf.read a) ∧
    (∀ b0 b1 b2 b3 : Byte, s.fbuf.read (4 * i) = some b0 → s.fbuf.read (4 * i + 1) = some b1 →
      s.fbuf.read (4 * i + 2) = some b2 → s.fbuf.read (4 * i + 3) = some b3 →
      perform (.read (0x100 + 4 * i) .word) s = .next { s with reads := s.reads ++
        [BitVec.ofNat 32 (b0.toNat + 2 ^ 8 * b1.toNat + 2 ^ 16 * b2.toNat + 2 ^ 24 * b3.toNat)] }) ∧
    ((∃ j, j < 4 ∧ s.fbuf.read (4 * i + j) = none) →
      ∃ j, j < 4 ∧ s.fbuf.read (4 * i + j) = none ∧
        perform (.read (0x100 + 4 * i) .word) s = .fault (.unwrittenByte (4 * i + j)))

/-! ## Errors and outcomes -/

/-- R212, R213: a CMD write either completes, LAST 0 and no sticky bit changed, or raises one error: its bit set, LAST
the code, and every other element as before. No other event writes LAST, apart from reset. -/
def Obligations.CommandsReportOneOutcome : Prop :=
  (∀ (w : Word) (s t : State), execute w s = .next t →
    (t.last = 0#3 ∧ t.err = s.err) ∨
    ∃ c, 1 ≤ c ∧ c ≤ 5 ∧ t = { s with err := s.err ||| (1#5 <<< (c - 1)), last := BitVec.ofNat 3 c }) ∧
  (∀ (s t : State) (off : Nat) (width : AccessWidth), perform (.read off width) s = .next t →
    t.last = s.last ∧ t.err = s.err) ∧
  ∀ (s t : State) (off : Nat) (width : AccessWidth) (w : Word), off ≠ 0x000 →
    perform (.write off width w) s = .next t → t.last = s.last

/-- R214: which command can raise which error; IllegalCommand comes only from decode. -/
def Obligations.ErrorsOfEachCommand : Prop :=
  (∀ (i : Instr) (s t : State), exec i s = .next t →
    match i with
    | .packBits _ _ => t.last = 0#3 ∨ t.last = 3#3
    | .unpackStart => t.last = 0#3 ∨ t.last = 1#3 ∨ t.last = 2#3
    | .unpackBits _ => t.last = 0#3 ∨ t.last = 4#3
    | .packReset | .packFinish | .crcInit | .crcByte _ | .crcCheck => t.last = 0#3
    | .lrcInit | .lrcByte _ | .lrcCheck | .ckInit | .ckByte _ | .ckFrame => t.last = 0#3) ∧
  ∀ (w : Word) (r : IllegalReason) (s : State), decode w = .error r →
    ∃ t, execute w s = .next t ∧ t.last = 5#3

/-- R215: a word that does not decode raises IllegalCommand whatever the state; EmptyInput comes before InputTooShort,
and FBUF[0] is not read for an empty frame. -/
def Obligations.ErrorPriority : Prop :=
  (∀ (w : Word) (r : IllegalReason) (s : State), decode w = .error r →
    execute w s = .next { s with err := s.err ||| 0b10000#5, last := 5#3 }) ∧
  ∀ (s : State) (m : Memory), s.flen = 0#9 → exec .unpackStart { s with fbuf := m } =
    .next { s with fbuf := m, err := s.err ||| 0b00001#5, last := 1#3 }

/-- R46, R222: no command's behaviour depends on STATUS: with other STATUS bits it makes the same state and the same
outcome code, its own error bit added to the bits that were there. -/
def Obligations.CommandsIgnoreStatus : Prop :=
  ∀ (i : Instr) (s : State) (e : BitVec 5) (l : BitVec 3),
    exec i { s with err := e, last := l } =
      mapNext (fun t => { t with err := if t.last = 0#3 then e else e ||| (1#5 <<< (t.last.toNat - 1)) }) (exec i s)

/-- R56: a command is never refused, and from a state that meets the invariant it never runs past the frame buffer: its
one fault is the use of a byte unwritten since reset. -/
def Obligations.CommandsStopOnlyOnUnwrittenBytes : Prop :=
  (∀ (i : Instr) (s : State) (r : Refusal), exec i s ≠ .refused r) ∧
  ∀ (i : Instr) (s : State) (f : Fault), s.Inv → i.wellFormed = true → exec i s = .fault f →
    ∃ a, a < 256 ∧ f = .unwrittenByte a ∧ s.fbuf.read a = none

/-- R31: only a successful PACK.FINISH, UNPACK.START, UNPACK.BITS, CRC.CHECK or LRC.CHECK writes RESULT. -/
def Obligations.ResultWriters : Prop :=
  ∀ (i : Instr) (s t : State), exec i s = .next t →
    t.result = s.result ∨
    (t.last = 0#3 ∧ (i = .packFinish ∨ i = .unpackStart ∨ (∃ k, i = .unpackBits k) ∨ i = .crcCheck ∨ i = .lrcCheck))

/-! ## The packer -/

/-- R103: PACK.RESET. -/
def Obligations.PackResetClears : Prop :=
  encode .packReset = 0x00000001#32 ∧ ∀ s : State, ∃ t, exec .packReset s = .next t ∧
    t = { s with pacc := 0x00#8, pcnt := 0#3, pn := 0#8, last := 0#3 } ∧ t.packstatWord = 0x00000000#32

/-- R105, R218: PACK.BITS k, d. It overflows past 2040 flags; otherwise the serial rule the model runs completes and
gives the state of the parallel form. -/
def Obligations.PackBitsSerialIsParallel : Prop :=
  ∀ (s : State) (k : Nat) (d : Byte), 1 ≤ k → k ≤ 8 →
    encode (.packBits k d) = 0x00000002#32 ||| (d.setWidth 32 <<< 8) ||| (BitVec.ofNat 32 (k - 1) <<< 16) ∧
    (8 * s.pn.toNat + s.pcnt.toNat + k > 2040 →
      exec (.packBits k d) s = .next { s with err := s.err ||| 0b00100#5, last := 3#3 }) ∧
    (8 * s.pn.toNat + s.pcnt.toNat + k ≤ 2040 →
      exec (.packBits k d) s = .next { s.packParallel k d with last := 0#3 })

/-- R106: PACK.FINISH, where the count fits (R25). -/
def Obligations.PackFinishPublishesFrame : Prop :=
  encode .packFinish = 0x00000003#32 ∧ ∀ s : State, (s.pcnt ≠ 0#3 → s.pn.toNat ≤ 254) →
    let n := if s.pcnt = 0#3 then s.pn.toNat else s.pn.toNat + 1
    n ≤ 255 ∧ exec .packFinish s = .next { s with
      fbuf := (if s.pcnt = 0#3 then s.fbuf else s.fbuf.write (1 + s.pn.toNat) s.pacc).write 0 (BitVec.ofNat 8 n),
      flen := BitVec.ofNat 9 (n + 1), result := BitVec.ofNat 32 n, pacc := 0x00#8, pcnt := 0#3, pn := 0#8,
      last := 0#3 }

/-- R107: chunks of 1 to 8 flags pushed from an empty session, then PACK.FINISH, leave `pack` of the flags in the frame
buffer, however the flags were split. -/
def Obligations.PackerMatchesPack : Prop :=
  ∀ (s : State) (cs : List (Nat × Byte)), s.PackEmpty → (∀ c ∈ cs, 1 ≤ c.1 ∧ c.1 ≤ 8) →
    (chunkFlags cs).length ≤ 2040 →
    ∃ t, execAll (packCommands cs ++ [.packFinish]) s = .next t ∧ t.fbuf.holds 0 (pack (chunkFlags cs)) ∧
      t.flen.toNat = packedCount (chunkFlags cs) + 1 ∧ t.result.toNat = packedCount (chunkFlags cs)

/-- R103 to R106: what the packer's commands leave unchanged. PACK.BITS stores at 1 + PN where the group completes,
PACK.FINISH at 0 and, for a partial group, at 1 + PN. -/
def Obligations.PackerFrame : Prop :=
  ∀ s t : State,
    (exec .packReset s = .next t →
      t = { s with pacc := t.pacc, pcnt := t.pcnt, pn := t.pn, last := t.last }) ∧
    (∀ k d, 1 ≤ k → k ≤ 8 → exec (.packBits k d) s = .next t →
      t = { s with pacc := t.pacc, pcnt := t.pcnt, pn := t.pn, err := t.err, last := t.last, fbuf := t.fbuf } ∧
      (∀ i, i ≠ 2 → t.err.getLsbD i = s.err.getLsbD i) ∧
      ∀ a, (8 ≤ s.pcnt.toNat + k → a ≠ 1 + s.pn.toNat) → t.fbuf.read a = s.fbuf.read a) ∧
    (exec .packFinish s = .next t →
      t = { s with pacc := t.pacc, pcnt := t.pcnt, pn := t.pn, flen := t.flen, result := t.result,
                   last := t.last, fbuf := t.fbuf } ∧
      ∀ a, a ≠ 0 → (s.pcnt ≠ 0#3 → a ≠ 1 + s.pn.toNat) → t.fbuf.read a = s.fbuf.read a)

/-! ## The unpacker -/

/-- R108: UNPACK.START, its two errors, its success, and the model's fault where FBUF[0] is unwritten. -/
def Obligations.UnpackStartLatchesCount : Prop :=
  encode .unpackStart = 0x00000008#32 ∧ ∀ s : State,
    (s.flen = 0#9 → exec .unpackStart s = .next { s with err := s.err ||| 0b00001#5, last := 1#3 }) ∧
    (∀ n : Byte, s.flen ≠ 0#9 → s.fbuf.read 0 = some n →
      (s.flen.toNat < n.toNat + 1 →
        exec .unpackStart s = .next { s with err := s.err ||| 0b00010#5, last := 2#3 }) ∧
      (n.toNat + 1 ≤ s.flen.toNat → exec .unpackStart s =
        .next { s with un := n, uptr := 0#11, result := BitVec.ofNat 32 n.toNat, last := 0#3 })) ∧
    (s.flen ≠ 0#9 → s.fbuf.read 0 = none → exec .unpackStart s = .fault (.unwrittenByte 0))

/-- R109: UNPACK.BITS k, its underrun, its success, and the model's fault where a byte is unwritten. -/
def Obligations.UnpackBitsReturnsBits : Prop :=
  ∀ (s : State) (k : Nat), 1 ≤ k → k ≤ 8 →
    encode (.unpackBits k) = 0x00000009#32 ||| (BitVec.ofNat 32 (k - 1) <<< 16) ∧
    (8 * s.un.toNat < s.uptr.toNat + k →
      exec (.unpackBits k) s = .next { s with err := s.err ||| 0b01000#5, last := 4#3 }) ∧
    (s.uptr.toNat + k ≤ 8 * s.un.toNat →
      (∀ j, j < k → ∃ b, s.fbuf.read (1 + (s.uptr.toNat + j) / 8) = some b) →
      ∃ r : Word, exec (.unpackBits k) s =
          .next { s with result := r, uptr := BitVec.ofNat 11 (s.uptr.toNat + k), last := 0#3 } ∧
        (∀ j b, j < k → s.fbuf.read (1 + (s.uptr.toNat + j) / 8) = some b →
          r.getLsbD j = b.getLsbD ((s.uptr.toNat + j) % 8)) ∧
        ∀ j, k ≤ j → r.getLsbD j = false) ∧
    (s.uptr.toNat + k ≤ 8 * s.un.toNat → (∃ j, j < k ∧ s.fbuf.read (1 + (s.uptr.toNat + j) / 8) = none) →
      ∃ a, s.fbuf.read a = none ∧ exec (.unpackBits k) s = .fault (.unwrittenByte a))

/-- R110: UNPACK.START and UNPACK.BITS return what `unpack` of the frame returns: the same errors, the same count, and
every command's bits in their place, until 8N bits are passed. -/
def Obligations.UnpackerMatchesUnpack : Prop :=
  ∀ (s : State) (f : List Byte), f.length = s.flen.toNat → s.fbuf.holds 0 f →
    (unpack f = .error .emptyInput → exec .unpackStart s = .next (s.raised .emptyInput)) ∧
    (unpack f = .error .inputTooShort → exec .unpackStart s = .next (s.raised .inputTooShort)) ∧
    ∀ (bits : List Bool) (n : Nat), unpack f = .ok (bits, n) →
      (∃ t, exec .unpackStart s = .next t ∧ t.result.toNat = n ∧ t.last = 0#3 ∧ t.urem = 8 * n) ∧
      ∀ (ks : List Nat) (k : Nat), (∀ x ∈ ks, 1 ≤ x ∧ x ≤ 8) → 1 ≤ k → k ≤ 8 → ks.sum ≤ 8 * n →
        ∃ t, execAll (.unpackStart :: ks.map .unpackBits ++ [.unpackBits k]) s = .next t ∧
          (ks.sum + k ≤ 8 * n → t.last = 0#3 ∧ ∀ j, j < k → bits[ks.sum + j]? = some (t.result.getLsbD j)) ∧
          (8 * n < ks.sum + k → t.last = 4#3)

/-- R108, R109: what the unpacker's commands leave unchanged; they store nothing in the frame buffer. -/
def Obligations.UnpackerFrame : Prop :=
  ∀ s t : State,
    (exec .unpackStart s = .next t →
      t = { s with un := t.un, uptr := t.uptr, result := t.result, err := t.err, last := t.last } ∧
      (∀ i, i ≠ 0 → i ≠ 1 → t.err.getLsbD i = s.err.getLsbD i) ∧ ∀ a, t.fbuf.read a = s.fbuf.read a) ∧
    ∀ k, exec (.unpackBits k) s = .next t →
      t = { s with uptr := t.uptr, result := t.result, err := t.err, last := t.last } ∧
      (∀ i, i ≠ 3 → t.err.getLsbD i = s.err.getLsbD i) ∧ ∀ a, t.fbuf.read a = s.fbuf.read a

/-- R111, R112: unpacking what `pack` made gives the flags back, then false up to the next multiple of eight. -/
def Obligations.UnpackOfPack : Prop :=
  ∀ bits : List Bool, bits.length ≤ 2040 →
    unpack (pack bits) =
      .ok (bits ++ List.replicate (8 * packedCount bits - bits.length) false, packedCount bits)

/-- R111, R112 in hardware terms: flags packed from an empty session, finished, and unpacked by commands come back in
order, the padding as zeros. -/
def Obligations.PackThenUnpackOnCore : Prop :=
  ∀ (s : State) (cs : List (Nat × Byte)) (ks : List Nat) (k : Nat), s.PackEmpty →
    (∀ c ∈ cs, 1 ≤ c.1 ∧ c.1 ≤ 8) → (chunkFlags cs).length ≤ 2040 → (∀ x ∈ ks, 1 ≤ x ∧ x ≤ 8) → 1 ≤ k → k ≤ 8 →
    ks.sum + k ≤ 8 * packedCount (chunkFlags cs) →
    ∃ t, execAll (packCommands cs ++ [.packFinish, .unpackStart] ++ ks.map .unpackBits ++ [.unpackBits k]) s = .next t ∧
      ∀ j, j < k → t.result.getLsbD j = (chunkFlags cs).getD (ks.sum + j) false

/-! ## The CRC engine -/

/-- R142: the table is the printed one; it is linear over XOR, zero only at 0, and its high bytes are distinct. -/
def Obligations.CrcTableAsPrinted : Prop :=
  (∀ c : Byte, printedTable[c.toNat]? = some (crcTable c)) ∧
  (∀ a b : Byte, crcTable (a ^^^ b) = crcTable a ^^^ crcTable b) ∧
  (∀ c : Byte, crcTable c = 0#16 → c = 0#8) ∧
  ∀ a b : Byte, crcTable a >>> 8 = crcTable b >>> 8 → a = b

/-- R143: the table form and the bit-serial form give the same CRC for every value and byte. -/
def Obligations.CrcTableFormIsBitSerial : Prop :=
  ∀ (v : BitVec 16) (d : Byte), crcNext v d = crcNextSerial v d

/-- R145, R146: CRC.BYTE d, with the table as R142 prints it. -/
def Obligations.CrcByteUpdates : Prop :=
  ∀ (s : State) (d : Byte), encode (.crcByte d) = 0x00000011#32 ||| (d.setWidth 32 <<< 8) ∧
    ∃ entry, printedTable[((s.crc ^^^ d.setWidth 16) &&& 0x00FF#16).toNat]? = some entry ∧
      exec (.crcByte d) s = .next { s with crc := ((s.crc >>> 8) &&& 0x00FF#16) ^^^ entry, last := 0#3 }

/-- R147: CRC.CHECK. -/
def Obligations.CrcCheckCompares : Prop :=
  encode .crcCheck = 0x00000012#32 ∧ ∀ s : State, exec .crcCheck s =
    .next { s with result := if s.crc = s.expect then 0x00000001#32 else 0x00000000#32, last := 0#3 }

/-- R148: after an initialising command (or reset), whatever commands follow that do not seed the CRC, the register
holds `computeCRC` of the bytes fed, and CRC.CHECK returns `checkCRC`; byte feeds always complete. -/
def Obligations.CrcMatchesComputeCrc : Prop :=
  State.reset.crc = 0xFFFF#16 ∧
  ∀ (s : State) (is : List Instr), (∀ i ∈ is, seedsCrc i = false) →
    (∀ t, (s.crc = 0xFFFF#16 ∧ execAll is s = .next t) ∨ execAll (.crcInit :: is) s = .next t ∨
        execAll (.ckInit :: is) s = .next t →
      t.crc = computeCRC (is.filterMap fedToCrc) ∧
      exec .crcCheck t = .next { t with
        result := if checkCRC (is.filterMap fedToCrc) t.expect then 0x00000001#32 else 0x00000000#32,
        last := 0#3 }) ∧
    ((∀ i ∈ is, (fedToCrc i).isSome = true) → ∃ t, execAll (.crcInit :: is) s = .next t)

/-- R149(a): data followed by its CRC, low byte then high byte, has CRC 0. -/
def Obligations.CrcResidueIsZero : Prop :=
  ∀ data : List Byte,
    computeCRC (data ++ [(computeCRC data).extractLsb' 0 8, (computeCRC data).extractLsb' 8 8]) = 0x0000#16

/-- R149(b): changing any one byte changes the CRC, so the check fails. -/
def Obligations.CrcDetectsOneByte : Prop :=
  ∀ (data : List Byte) (i : Nat) (b : Byte), i < data.length → data[i]? ≠ some b →
    checkCRC (data.set i b) (computeCRC data) = false

/-! ## The LRC engine -/

/-- R172, R173: LRC.BYTE d. -/
def Obligations.LrcByteAdds : Prop :=
  ∀ (s : State) (d : Byte), encode (.lrcByte d) = 0x00000019#32 ||| (d.setWidth 32 <<< 8) ∧
    exec (.lrcByte d) s =
      .next { s with lsum := BitVec.ofNat 8 ((s.lsum.toNat + d.toNat) % 256), last := 0#3 }

/-- R174: LRC.CHECK compares the zero-extended LRC value with all 16 bits of EXPECT. -/
def Obligations.LrcCheckCompares : Prop :=
  encode .lrcCheck = 0x0000001A#32 ∧ ∀ s : State, exec .lrcCheck s = .next { s with
    result := if (256 - s.lsum.toNat) % 256 = s.expect.toNat then 0x00000001#32 else 0x00000000#32, last := 0#3 }

/-- R175: after an initialising command (or reset), whatever commands follow that do not seed LSUM, LSUM is the sum and
LRCV `computeLRC` of the bytes fed, and LRC.CHECK returns `checkLRC` where EXPECT's high byte is 0, else 0. -/
def Obligations.LrcMatchesComputeLrc : Prop :=
  State.reset.lsum = 0x00#8 ∧
  ∀ (s : State) (is : List Instr), (∀ i ∈ is, seedsLrc i = false) →
    (∀ t, (s.lsum = 0x00#8 ∧ execAll is s = .next t) ∨ execAll (.lrcInit :: is) s = .next t ∨
        execAll (.ckInit :: is) s = .next t →
      t.lsum.toNat = sumMod256 (is.filterMap fedToLrc) ∧
      lrcValue t.lsum = computeLRC (is.filterMap fedToLrc) ∧
      exec .lrcCheck t = .next { t with
        result := if t.expect.extractLsb' 8 8 = 0#8 ∧ checkLRC (is.filterMap fedToLrc) (t.expect.extractLsb' 0 8)
          then 0x00000001#32 else 0x00000000#32,
        last := 0#3 }) ∧
    ((∀ i ∈ is, (fedToLrc i).isSome = true) → ∃ t, execAll (.lrcInit :: is) s = .next t)

/-- R176: the LRC's residue, its detection of one changed byte, and its weakness: changes whose differences cancel, and
reordering. -/
def Obligations.LrcProperties : Prop :=
  (∀ data : List Byte, sumMod256 (data ++ [computeLRC data]) = 0) ∧
  (∀ (data : List Byte) (i : Nat) (b : Byte), i < data.length → data[i]? ≠ some b →
    checkLRC (data.set i b) (computeLRC data) = false) ∧
  (∀ (data : List Byte) (i j : Nat) (a b a' b' : Byte), i ≠ j → data[i]? = some a → data[j]? = some b →
    a' + b' = a + b → computeLRC ((data.set i a').set j b') = computeLRC data) ∧
  ∀ data data' : List Byte, data.Perm data' → computeLRC data' = computeLRC data

/-! ## The checksum controller -/

/-- R144, R171, R191: CRC.INIT, LRC.INIT and CK.INIT. -/
def Obligations.InitCommandsSeed : Prop :=
  encode .crcInit = 0x00000010#32 ∧ encode .lrcInit = 0x00000018#32 ∧ encode .ckInit = 0x00000020#32 ∧
  ∀ s : State, exec .crcInit s = .next { s with crc := 0xFFFF#16, last := 0#3 } ∧
    exec .lrcInit s = .next { s with lsum := 0x00#8, last := 0#3 } ∧
    exec .ckInit s = .next { s with crc := 0xFFFF#16, lsum := 0x00#8, last := 0#3 }

/-- R192: CK.BYTE d leaves what CRC.BYTE d then LRC.BYTE d leave. -/
def Obligations.CkByteFeedsBoth : Prop :=
  ∀ (s : State) (d : Byte), encode (.ckByte d) = 0x00000021#32 ||| (d.setWidth 32 <<< 8) ∧
    exec (.ckByte d) s = execAll [.crcByte d, .lrcByte d] s ∧
    exec (.ckByte d) s = .next { s with crc := crcNext s.crc d, lsum := s.lsum + d, last := 0#3 }

/-- R193: CK.FRAME computes both checksums of FBUF[0..FLEN-1], and faults where a byte of the frame is unwritten. -/
def Obligations.CkFrameComputesBoth : Prop :=
  encode .ckFrame = 0x00000022#32 ∧ ∀ s : State, s.flen.toNat ≤ 256 →
    (∀ f : List Byte, f.length = s.flen.toNat → s.fbuf.holds 0 f →
      exec .ckFrame s = .next { s with
        crc := computeCRC f, lsum := BitVec.ofNat 8 (sumMod256 f), last := 0#3 }) ∧
    ((∃ i, i < s.flen.toNat ∧ s.fbuf.read i = none) →
      ∃ i, i < s.flen.toNat ∧ s.fbuf.read i = none ∧ exec .ckFrame s = .fault (.unwrittenByte i))

/-- R194: after CK.FRAME of a frame, or CK.INIT and CK.BYTE feeding it, the checks return `checkCRC` and `checkLRC`. -/
def Obligations.ControllerMatchesReference : Prop :=
  ∀ (s : State) (f : List Byte),
    (∃ u, execAll (.ckInit :: f.map .ckByte) s = .next u) ∧
    ∀ t, (f.length = s.flen.toNat ∧ s.flen.toNat ≤ 256 ∧ s.fbuf.holds 0 f ∧ exec .ckFrame s = .next t) ∨
        execAll (.ckInit :: f.map .ckByte) s = .next t →
      t.crc = computeCRC f ∧ lrcValue t.lsum = computeLRC f ∧
      exec .crcCheck t = .next { t with
        result := if checkCRC f t.expect then 0x00000001#32 else 0x00000000#32, last := 0#3 } ∧
      exec .lrcCheck t = .next { t with
        result := if t.expect.extractLsb' 8 8 = 0#8 ∧ checkLRC f (t.expect.extractLsb' 0 8)
          then 0x00000001#32 else 0x00000000#32,
        last := 0#3 }

/-- R195: the recipes. A frame in the buffer, trailer included, has CRC 0 after CK.FRAME exactly when its trailer is the
CRC of the rest; fed to the LRC engine with its LRC byte, LSUM is 0 exactly when that byte is the LRC of the rest. -/
def Obligations.FrameVerificationRecipes : Prop :=
  (∀ (s : State) (data : List Byte) (lo hi : Byte), data.length + 2 = s.flen.toNat → s.flen.toNat ≤ 256 →
    s.fbuf.holds 0 (data ++ [lo, hi]) →
    ∃ t, exec .ckFrame s = .next t ∧
      (t.crc = 0x0000#16 ↔ (computeCRC data).extractLsb' 0 8 = lo ∧ (computeCRC data).extractLsb' 8 8 = hi)) ∧
  ∀ (s : State) (data : List Byte) (b : Byte),
    ∃ t, execAll (.lrcInit :: (data ++ [b]).map .lrcByte) s = .next t ∧ (t.lsum = 0x00#8 ↔ b = computeLRC data)

/-- R144 to R147, R171 to R174, R191 to R193: what the checksum commands leave unchanged; they store nothing. -/
def Obligations.ChecksumFrame : Prop :=
  ∀ (i : Instr) (s t : State), isBitCommand i = false → exec i s = .next t →
    t = { s with crc := t.crc, lsum := t.lsum, result := t.result, last := t.last } ∧
    (∀ a, t.fbuf.read a = s.fbuf.read a) ∧
    (partOf i = .crc → t.lsum = s.lsum) ∧ (partOf i = .lrc → t.crc = s.crc) ∧
    (i = .crcCheck ∨ i = .lrcCheck → t.crc = s.crc ∧ t.lsum = s.lsum) ∧
    (i ≠ .crcCheck → i ≠ .lrcCheck → t.result = s.result)

/-- R190: the packer and unpacker neither read nor write CRC and LSUM, the checksum commands neither read nor write
PACC, PCNT, PN, UN and UPTR, and each engine's commands neither read nor write the other's register. -/
def Obligations.EnginesAreIndependent : Prop :=
  (∀ (i : Instr) (s : State) (c : BitVec 16) (l : Byte), isBitCommand i = true →
    exec i { s with crc := c, lsum := l } = mapNext (fun t => { t with crc := c, lsum := l }) (exec i s) ∧
    ∀ t, exec i s = .next t → t.crc = s.crc ∧ t.lsum = s.lsum) ∧
  (∀ (i : Instr) (s : State) (a : Byte) (n : BitVec 3) (p u : BitVec 8) (q : BitVec 11), isBitCommand i = false →
    exec i { s with pacc := a, pcnt := n, pn := p, un := u, uptr := q } =
      mapNext (fun t => { t with pacc := a, pcnt := n, pn := p, un := u, uptr := q }) (exec i s) ∧
    ∀ t, exec i s = .next t →
      t.pacc = s.pacc ∧ t.pcnt = s.pcnt ∧ t.pn = s.pn ∧ t.un = s.un ∧ t.uptr = s.uptr) ∧
  (∀ (i : Instr) (s : State) (l : Byte), partOf i = .crc →
    exec i { s with lsum := l } = mapNext (fun t => { t with lsum := l }) (exec i s)) ∧
  ∀ (i : Instr) (s : State) (c : BitVec 16), partOf i = .lrc →
    exec i { s with crc := c } = mapNext (fun t => { t with crc := c }) (exec i s)
end

