-- ==== Sys2Proof/Laws/Memory.lean ====
section
/-! SUPPORT. The memory laws: a read after a write, and the canonical form kept by every write (Machine/Ops.lean). -/

namespace Sys2Proof.Machine

@[simp] theorem Memory.read_nil (i : Nat) : Memory.read [] i = none := rfl

theorem Memory.read_cons (j : Nat) (b : Byte) (m : Memory) (i : Nat) :
    Memory.read ((j, b) :: m) i = if i = j then some b else Memory.read m i := rfl

/-- A read after a write to the same place gives the byte written. -/
@[simp] theorem Memory.read_write_self (m : Memory) (i : Nat) (b : Byte) : (m.write i b).read i = some b := by
  induction m with
  | nil => simp [Memory.write, Memory.read_cons]
  | cons c m ih =>
    obtain ⟨j, c⟩ := c
    simp only [Memory.write]
    split
    · simp [Memory.read_cons]
    · split
      · simp [Memory.read_cons]
      · simp [Memory.read_cons, *]

/-- A write leaves every other place alone. -/
theorem Memory.read_write_of_ne (m : Memory) {i a : Nat} (b : Byte) (h : a ≠ i) :
    (m.write i b).read a = m.read a := by
  induction m with
  | nil => simp [Memory.write, Memory.read_cons, h]
  | cons c m ih =>
    obtain ⟨j, c⟩ := c
    simp only [Memory.write]
    split
    · simp [Memory.read_cons, h]
    · split
      · subst_vars; simp [Memory.read_cons, h]
      · simp [Memory.read_cons, ih]

theorem Memory.read_write (m : Memory) (i a : Nat) (b : Byte) :
    (m.write i b).read a = if a = i then some b else m.read a := by
  split
  · subst_vars; exact m.read_write_self _ b
  · exact m.read_write_of_ne b ‹_›

/-- The indices a write leaves in the list. -/
theorem Memory.mem_write {m : Memory} {i : Nat} {b : Byte} {c : Host.Cell} (h : c ∈ m.write i b) :
    c = (i, b) ∨ c ∈ m := by
  induction m with
  | nil => simpa [Memory.write] using h
  | cons e m ih =>
    obtain ⟨j, e⟩ := e
    simp only [Memory.write] at h
    split at h
    · simpa using h
    · split at h
      · rcases List.mem_cons.1 h with h | h
        · exact .inl h
        · exact .inr (by simp [h])
      · rcases List.mem_cons.1 h with h | h
        · exact .inr (by simp [h])
        · rcases ih h with h | h
          · exact .inl h
          · exact .inr (by simp [h])

/-- A write inside the buffer keeps the canonical form. -/
theorem Memory.wf_write {m : Memory} {i : Nat} (b : Byte) (h : m.wf) (hi : i < Config.fbufBytes) :
    (m.write i b).wf := by
  refine ⟨?_, fun c hc => ?_⟩
  · have hp := h.1
    clear h
    induction m with
    | nil => simp [Memory.write]
    | cons e m ih =>
      obtain ⟨j, e⟩ := e
      simp only [Memory.write]
      rw [List.pairwise_cons] at hp
      split
      · refine List.pairwise_cons.2 ⟨fun a ha => ?_, List.pairwise_cons.2 hp⟩
        rcases List.mem_cons.1 ha with ha | ha
        · subst ha; assumption
        · exact lt_trans ‹i < j› (hp.1 a ha)
      · split
        · subst_vars; exact List.pairwise_cons.2 hp
        · refine List.pairwise_cons.2 ⟨fun a ha => ?_, ih hp.2⟩
          rcases Memory.mem_write ha with ha | ha
          · subst ha; simp only; omega
          · exact hp.1 a ha
  · rcases Memory.mem_write hc with hc | hc
    · subst hc; exact hi
    · exact h.2 c hc

/-- Memory with nothing listed is in canonical form; reset's memory is that. -/
theorem Memory.wf_nil : Memory.wf [] := ⟨List.Pairwise.nil, by simp⟩

theorem reset_memory_wf : State.reset.fbuf.wf := Memory.wf_nil

end Sys2Proof.Machine
end

