-- ==== Sys2Proof/Laws/Ops.lean ====
section
/-! SUPPORT. What each shared operation of Machine/Ops.lean can do, said once. -/

namespace Sys2Proof.Machine

/-- A sequence of two operations that ends well: both do. -/
theorem bind_ok {α β : Type} {x : Except Fault α} {f : α → Except Fault β} {b : β} (h : (x >>= f) = .ok b) :
    ∃ a, x = .ok a ∧ f a = .ok b := by
  cases x with
  | error e => cases h
  | ok a => exact ⟨a, rfl, h⟩

/-- A sequence of two operations that faults: the first does, or the second on the first's answer. -/
theorem bind_error {α β : Type} {x : Except Fault α} {f : α → Except Fault β} {e : Fault}
    (h : (x >>= f) = .error e) : x = .error e ∨ ∃ a, x = .ok a ∧ f a = .error e := by
  cases x with
  | error e' => exact .inl (by cases h; rfl)
  | ok a => exact .inr ⟨a, rfl, h⟩

@[simp] theorem ok_bind {α β : Type} (a : α) (f : α → Except Fault β) :
    ((Except.ok a : Except Fault α) >>= f) = f a := rfl

@[simp] theorem error_bind {α β : Type} (e : Fault) (f : α → Except Fault β) :
    ((Except.error e : Except Fault α) >>= f) = .error e := rfl

/-- A frame-buffer read answers a byte exactly where the byte is written. -/
theorem fbufRead_ok_iff (s : State) (i : Nat) (b : Byte) :
    fbufRead s i = .ok b ↔ i < Config.fbufBytes ∧ s.fbuf.read i = some b := by
  unfold fbufRead
  split
  · cases h : s.fbuf.read i <;> simp [*]
  · simp [*]

/-- A frame-buffer read faults inside the buffer on an unwritten byte, and outside it always. -/
theorem fbufRead_error_iff (s : State) (i : Nat) (f : Fault) :
    fbufRead s i = .error f ↔
      (i < Config.fbufBytes ∧ s.fbuf.read i = none ∧ f = .unwrittenByte i) ∨
      (Config.fbufBytes ≤ i ∧ f = .noSuchByte i) := by
  unfold fbufRead
  split
  · have h1 : ¬ Config.fbufBytes ≤ i := by omega
    cases h : s.fbuf.read i <;> simp [*, eq_comm]
  · have h1 : Config.fbufBytes ≤ i := by omega
    simp [*, eq_comm]

/-- A frame-buffer read depends on the frame buffer alone. -/
theorem fbufRead_congr {s t : State} (h : s.fbuf = t.fbuf) (i : Nat) : fbufRead s i = fbufRead t i := by
  simp [fbufRead, h]

/-- A frame-buffer write changes that one byte and nothing else. -/
theorem fbufWrite_ok_iff (i : Nat) (b : Byte) (s t : State) :
    fbufWrite i b s = .ok t ↔ i < Config.fbufBytes ∧ t = { s with fbuf := s.fbuf.write i b } := by
  unfold fbufWrite
  split <;> simp [*, eq_comm]

/-- A frame-buffer write faults only outside the buffer. -/
theorem fbufWrite_error_iff (i : Nat) (b : Byte) (s : State) (f : Fault) :
    fbufWrite i b s = .error f ↔ Config.fbufBytes ≤ i ∧ f = .noSuchByte i := by
  unfold fbufWrite
  split
  · simp; omega
  · simp_all [eq_comm]

/-- A completed command answers the state it made with LAST = 0. -/
theorem complete_next_iff (r : Except Fault State) (t : State) :
    complete r = .next t ↔ ∃ s, r = .ok s ∧ t = s.completed := by
  cases r <;> simp [complete, eq_comm]

theorem complete_fault_iff (r : Except Fault State) (f : Fault) : complete r = .fault f ↔ r = .error f := by
  cases r <;> simp [complete]

/-- Completing never refuses. -/
theorem complete_ne_refused (r : Except Fault State) (x : Refusal) : complete r ≠ .refused x := by
  cases r <;> simp [complete]

@[simp] theorem complete_ok (s : State) : complete (.ok s) = .next s.completed := rfl

@[simp] theorem complete_error (f : Fault) : complete (.error f) = .fault f := rfl

/-- An error of the core is a next state. -/
@[simp] theorem raiseError_eq (e : ErrorCode) (s : State) : raiseError e s = .next (s.raised e) := rfl

end Sys2Proof.Machine
end

