-- ==== Sys2Proof/Laws/State.lean ====
section
/-! SUPPORT. One lemma per field for each named update of State: the error action, the success report, the STATUS
write, reset, and placing a command. -/

namespace Sys2Proof.Machine

@[simp] theorem State.raised_pacc (e : ErrorCode) (s : State) : (s.raised e).pacc = s.pacc := rfl
@[simp] theorem State.raised_pcnt (e : ErrorCode) (s : State) : (s.raised e).pcnt = s.pcnt := rfl
@[simp] theorem State.raised_pn (e : ErrorCode) (s : State) : (s.raised e).pn = s.pn := rfl
@[simp] theorem State.raised_un (e : ErrorCode) (s : State) : (s.raised e).un = s.un := rfl
@[simp] theorem State.raised_uptr (e : ErrorCode) (s : State) : (s.raised e).uptr = s.uptr := rfl
@[simp] theorem State.raised_crc (e : ErrorCode) (s : State) : (s.raised e).crc = s.crc := rfl
@[simp] theorem State.raised_lsum (e : ErrorCode) (s : State) : (s.raised e).lsum = s.lsum := rfl
@[simp] theorem State.raised_expect (e : ErrorCode) (s : State) : (s.raised e).expect = s.expect := rfl
@[simp] theorem State.raised_result (e : ErrorCode) (s : State) : (s.raised e).result = s.result := rfl
@[simp] theorem State.raised_flen (e : ErrorCode) (s : State) : (s.raised e).flen = s.flen := rfl
@[simp] theorem State.raised_err (e : ErrorCode) (s : State) : (s.raised e).err = s.err ||| e.bit := rfl
@[simp] theorem State.raised_last (e : ErrorCode) (s : State) : (s.raised e).last = e.code := rfl
@[simp] theorem State.raised_fbuf (e : ErrorCode) (s : State) : (s.raised e).fbuf = s.fbuf := rfl
@[simp] theorem State.raised_resetHeld (e : ErrorCode) (s : State) : (s.raised e).resetHeld = s.resetHeld := rfl
@[simp] theorem State.raised_pending (e : ErrorCode) (s : State) : (s.raised e).pending = s.pending := rfl
@[simp] theorem State.raised_reads (e : ErrorCode) (s : State) : (s.raised e).reads = s.reads := rfl

@[simp] theorem State.completed_pacc (s : State) : (s.completed).pacc = s.pacc := rfl
@[simp] theorem State.completed_pcnt (s : State) : (s.completed).pcnt = s.pcnt := rfl
@[simp] theorem State.completed_pn (s : State) : (s.completed).pn = s.pn := rfl
@[simp] theorem State.completed_un (s : State) : (s.completed).un = s.un := rfl
@[simp] theorem State.completed_uptr (s : State) : (s.completed).uptr = s.uptr := rfl
@[simp] theorem State.completed_crc (s : State) : (s.completed).crc = s.crc := rfl
@[simp] theorem State.completed_lsum (s : State) : (s.completed).lsum = s.lsum := rfl
@[simp] theorem State.completed_expect (s : State) : (s.completed).expect = s.expect := rfl
@[simp] theorem State.completed_result (s : State) : (s.completed).result = s.result := rfl
@[simp] theorem State.completed_flen (s : State) : (s.completed).flen = s.flen := rfl
@[simp] theorem State.completed_err (s : State) : (s.completed).err = s.err := rfl
@[simp] theorem State.completed_last (s : State) : (s.completed).last = 0#3 := rfl
@[simp] theorem State.completed_fbuf (s : State) : (s.completed).fbuf = s.fbuf := rfl
@[simp] theorem State.completed_resetHeld (s : State) : (s.completed).resetHeld = s.resetHeld := rfl
@[simp] theorem State.completed_pending (s : State) : (s.completed).pending = s.pending := rfl
@[simp] theorem State.completed_reads (s : State) : (s.completed).reads = s.reads := rfl

@[simp] theorem State.clearErr_pacc (w : Word) (s : State) : (s.clearErr w).pacc = s.pacc := rfl
@[simp] theorem State.clearErr_pcnt (w : Word) (s : State) : (s.clearErr w).pcnt = s.pcnt := rfl
@[simp] theorem State.clearErr_pn (w : Word) (s : State) : (s.clearErr w).pn = s.pn := rfl
@[simp] theorem State.clearErr_un (w : Word) (s : State) : (s.clearErr w).un = s.un := rfl
@[simp] theorem State.clearErr_uptr (w : Word) (s : State) : (s.clearErr w).uptr = s.uptr := rfl
@[simp] theorem State.clearErr_crc (w : Word) (s : State) : (s.clearErr w).crc = s.crc := rfl
@[simp] theorem State.clearErr_lsum (w : Word) (s : State) : (s.clearErr w).lsum = s.lsum := rfl
@[simp] theorem State.clearErr_expect (w : Word) (s : State) : (s.clearErr w).expect = s.expect := rfl
@[simp] theorem State.clearErr_result (w : Word) (s : State) : (s.clearErr w).result = s.result := rfl
@[simp] theorem State.clearErr_flen (w : Word) (s : State) : (s.clearErr w).flen = s.flen := rfl
@[simp] theorem State.clearErr_err (w : Word) (s : State) : (s.clearErr w).err = s.err &&& ~~~(w.extractLsb' 0 5) := rfl
@[simp] theorem State.clearErr_last (w : Word) (s : State) : (s.clearErr w).last = s.last := rfl
@[simp] theorem State.clearErr_fbuf (w : Word) (s : State) : (s.clearErr w).fbuf = s.fbuf := rfl
@[simp] theorem State.clearErr_resetHeld (w : Word) (s : State) : (s.clearErr w).resetHeld = s.resetHeld := rfl
@[simp] theorem State.clearErr_pending (w : Word) (s : State) : (s.clearErr w).pending = s.pending := rfl
@[simp] theorem State.clearErr_reads (w : Word) (s : State) : (s.clearErr w).reads = s.reads := rfl

@[simp] theorem State.resetCore_pacc (s : State) : (s.resetCore).pacc = 0x00#8 := rfl
@[simp] theorem State.resetCore_pcnt (s : State) : (s.resetCore).pcnt = 0#3 := rfl
@[simp] theorem State.resetCore_pn (s : State) : (s.resetCore).pn = 0#8 := rfl
@[simp] theorem State.resetCore_un (s : State) : (s.resetCore).un = 0#8 := rfl
@[simp] theorem State.resetCore_uptr (s : State) : (s.resetCore).uptr = 0#11 := rfl
@[simp] theorem State.resetCore_crc (s : State) : (s.resetCore).crc = Config.crcSeed := rfl
@[simp] theorem State.resetCore_lsum (s : State) : (s.resetCore).lsum = 0x00#8 := rfl
@[simp] theorem State.resetCore_expect (s : State) : (s.resetCore).expect = 0x0000#16 := rfl
@[simp] theorem State.resetCore_result (s : State) : (s.resetCore).result = 0x00000000#32 := rfl
@[simp] theorem State.resetCore_flen (s : State) : (s.resetCore).flen = 0#9 := rfl
@[simp] theorem State.resetCore_err (s : State) : (s.resetCore).err = 0b00000#5 := rfl
@[simp] theorem State.resetCore_last (s : State) : (s.resetCore).last = 0#3 := rfl
@[simp] theorem State.resetCore_fbuf (s : State) : (s.resetCore).fbuf = [] := rfl
@[simp] theorem State.resetCore_resetHeld (s : State) : (s.resetCore).resetHeld = s.resetHeld := rfl
@[simp] theorem State.resetCore_pending (s : State) : (s.resetCore).pending = s.pending := rfl
@[simp] theorem State.resetCore_reads (s : State) : (s.resetCore).reads = s.reads := rfl

@[simp] theorem State.withCommand_pacc (w : Word) (s : State) : (s.withCommand w).pacc = s.pacc := rfl
@[simp] theorem State.withCommand_pcnt (w : Word) (s : State) : (s.withCommand w).pcnt = s.pcnt := rfl
@[simp] theorem State.withCommand_pn (w : Word) (s : State) : (s.withCommand w).pn = s.pn := rfl
@[simp] theorem State.withCommand_un (w : Word) (s : State) : (s.withCommand w).un = s.un := rfl
@[simp] theorem State.withCommand_uptr (w : Word) (s : State) : (s.withCommand w).uptr = s.uptr := rfl
@[simp] theorem State.withCommand_crc (w : Word) (s : State) : (s.withCommand w).crc = s.crc := rfl
@[simp] theorem State.withCommand_lsum (w : Word) (s : State) : (s.withCommand w).lsum = s.lsum := rfl
@[simp] theorem State.withCommand_expect (w : Word) (s : State) : (s.withCommand w).expect = s.expect := rfl
@[simp] theorem State.withCommand_result (w : Word) (s : State) : (s.withCommand w).result = s.result := rfl
@[simp] theorem State.withCommand_flen (w : Word) (s : State) : (s.withCommand w).flen = s.flen := rfl
@[simp] theorem State.withCommand_err (w : Word) (s : State) : (s.withCommand w).err = s.err := rfl
@[simp] theorem State.withCommand_last (w : Word) (s : State) : (s.withCommand w).last = s.last := rfl
@[simp] theorem State.withCommand_fbuf (w : Word) (s : State) : (s.withCommand w).fbuf = s.fbuf := rfl
@[simp] theorem State.withCommand_resetHeld (w : Word) (s : State) : (s.withCommand w).resetHeld = false := rfl
@[simp] theorem State.withCommand_pending (w : Word) (s : State) : (s.withCommand w).pending = .write 0x000 .word w :: s.pending := rfl
@[simp] theorem State.withCommand_reads (w : Word) (s : State) : (s.withCommand w).reads = s.reads := rfl

end Sys2Proof.Machine
end

