-- ==== Sys2Proof/Laws/Step.lean ====
section
/-! SUPPORT. What the window operations and a step can do, said once (spec/20_memory.md R52, R55, R59, R65). -/

namespace Sys2Proof.Machine

/-- An access is admitted exactly when reset is released and R52 holds of it. -/
theorem accessProblem_none_iff (off : Nat) (width : AccessWidth) (s : State) :
    accessProblem off width s = none ↔
      s.resetHeld = false ∧ width = .word ∧ off % 4 = 0 ∧ off < Config.windowBytes := by
  unfold accessProblem
  cases s.resetHeld <;> simp only [Bool.false_eq_true, if_true, if_false, reduceCtorEq, false_and, true_and]
  split
  · simp_all
  · split
    · simp_all
    · split
      · simp_all
      · simp_all

theorem execute_ok {w : Word} {i : Instr} (h : decode w = .ok i) (s : State) : execute w s = exec i s := by
  simp [execute, h]

theorem execute_error {w : Word} {r : IllegalReason} (h : decode w = .error r) (s : State) :
    execute w s = .next (s.raised .illegalCommand) := by
  simp [execute, h]

theorem step_idle {s : State} (h : s.pending = []) : step s = .next s := by
  simp [step, performPending, h]

theorem step_event {s : State} {e : HostEvent} {es : List HostEvent} (h : s.pending = e :: es) :
    step s = perform e { s with pending := es } := by
  simp [step, performPending, h]

@[simp] theorem andThen_next (s : State) (f : State → Host.Outcome State Fault Refusal) :
    andThen (.next s) f = f s := rfl

@[simp] theorem andThen_fault (r : Fault) (f : State → Host.Outcome State Fault Refusal) :
    andThen (.fault r) f = .fault r := rfl

@[simp] theorem andThen_refused (r : Refusal) (f : State → Host.Outcome State Fault Refusal) :
    andThen (.refused r) f = .refused r := rfl

theorem andThen_next_iff (o : Host.Outcome State Fault Refusal) (f : State → Host.Outcome State Fault Refusal)
    (t : State) : andThen o f = .next t ↔ ∃ s, o = .next s ∧ f s = .next t := by
  cases o <;> simp

/-- Commands in two parts: the second from where the first ends. -/
theorem execAll_append (xs ys : List Instr) (s : State) :
    execAll (xs ++ ys) s = andThen (execAll xs s) (execAll ys) := by
  induction xs generalizing s with
  | nil => rfl
  | cons x xs ih =>
    simp only [List.cons_append, execAll]
    cases exec x s with
    | next t => exact ih t
    | fault f => rfl
    | refused r => rfl

/-- Events in two parts: the second from where the first ends (R59). -/
theorem performAll_append (xs ys : List HostEvent) (s : State) :
    performAll (xs ++ ys) s = andThen (performAll xs s) (performAll ys) := by
  induction xs generalizing s with
  | nil => rfl
  | cons x xs ih =>
    simp only [List.cons_append, performAll]
    cases perform x s with
    | next t => exact ih t
    | fault f => rfl
    | refused r => rfl

/-- A window write inside the frame buffer stores its four bytes (R55). -/
theorem windowWrite_eq (i : Nat) (w : Word) (s : State) (h : i + 3 < Config.fbufBytes) :
    windowWrite i w s = .ok { s with
      fbuf := (((s.fbuf.write i (byteOf 0 w)).write (i + 1) (byteOf 1 w)).write (i + 2) (byteOf 2 w)).write (i + 3)
        (byteOf 3 w) } := by
  have h0 : i < Config.fbufBytes := by omega
  have h1 : i + 1 < Config.fbufBytes := by omega
  have h2 : i + 2 < Config.fbufBytes := by omega
  simp only [windowWrite, fbufWrite, h, h0, h1, h2, if_true, ok_bind]

/-- A window write changes the frame buffer and nothing else (R55). -/
theorem windowWrite_ok (i : Nat) (w : Word) (s t : State) (h : windowWrite i w s = .ok t) :
    t = { s with fbuf := (((s.fbuf.write i (byteOf 0 w)).write (i + 1) (byteOf 1 w)).write (i + 2)
                            (byteOf 2 w)).write (i + 3) (byteOf 3 w) } := by
  obtain ⟨s1, h1, h⟩ := bind_ok h
  obtain ⟨s2, h2, h⟩ := bind_ok h
  obtain ⟨s3, h3, h⟩ := bind_ok h
  obtain ⟨-, rfl⟩ := (fbufWrite_ok_iff _ _ _ _).1 h1
  obtain ⟨-, rfl⟩ := (fbufWrite_ok_iff _ _ _ _).1 h2
  obtain ⟨-, rfl⟩ := (fbufWrite_ok_iff _ _ _ _).1 h3
  exact ((fbufWrite_ok_iff _ _ _ _).1 h).2

/-- What a host write can do where it answers a next state (R65). -/
theorem hostWrite_cases (off : Nat) (w : Word) (s t : State) (h : hostWrite off w s = .next t) :
    (0x100 ≤ off ∧ windowWrite (off - 0x100) w s = .ok t) ∨ (off = 0x000 ∧ execute w s = .next t) ∨
    (off = 0x004 ∧ t = s.clearErr w) ∨ (off = 0x00C ∧ t = { s with flen := flenOf w }) ∨
    (off = 0x020 ∧ t = { s with expect := expectOf w }) ∨ t = s := by
  unfold hostWrite at h
  split at h
  · split at h
    · cases h; exact .inl ⟨‹_›, ‹_›⟩
    · cases h
  · split at h
    · exact .inr (.inl ⟨‹_›, h⟩)
    · split at h
      · cases h; exact .inr (.inr (.inl ⟨‹_›, rfl⟩))
      · split at h
        · cases h; exact .inr (.inr (.inr (.inl ⟨‹_›, rfl⟩)))
        · split at h
          · cases h; exact .inr (.inr (.inr (.inr (.inl ⟨‹_›, rfl⟩))))
          · cases h; exact .inr (.inr (.inr (.inr (.inr rfl))))

/-- What an event can do where it answers a next state (R59). -/
theorem perform_cases (e : HostEvent) (s t : State) (h : perform e s = .next t) :
    (∃ off width v, e = .read off width ∧ accessProblem off width s = none ∧ hostRead off s = .ok v ∧
      t = { s with reads := s.reads ++ [v] }) ∨
    (∃ off width w, e = .write off width w ∧ accessProblem off width s = none ∧ hostWrite off w s = .next t) ∨
    (∃ held, e = .reset held ∧ t = { s.resetCore with resetHeld := held }) := by
  cases e with
  | read off width =>
    simp only [perform] at h
    split at h
    · cases h
    · split at h
      · cases h; exact .inl ⟨off, width, _, rfl, ‹_›, ‹_›, rfl⟩
      · cases h
  | write off width w =>
    simp only [perform] at h
    split at h
    · cases h
    · exact .inr (.inl ⟨off, width, w, rfl, ‹_›, h⟩)
  | reset held => cases h; exact .inr (.inr ⟨held, rfl, rfl⟩)

end Sys2Proof.Machine
end

