-- ==== Sys2Proof/Laws/Core.lean ====
section
/-! SUPPORT. The host's run of the machine in the model's own words (spec/20_memory.md R59). -/

namespace Sys2Proof.Machine

theorem run_next (M : Host.Core) (k : Nat) (s t : M.State) (h : M.step s = .next t) : M.run (k + 1) s = M.run k t := by
  simp only [Host.Core.run, h]

theorem run_fault (M : Host.Core) (k : Nat) (s : M.State) (f : M.Fault) (h : M.step s = .fault f) :
    M.run (k + 1) s = .fault f := by
  simp only [Host.Core.run, h]

theorem run_refused (M : Host.Core) (k : Nat) (s : M.State) (r : M.Refusal) (h : M.step s = .refused r) :
    M.run (k + 1) s = .refused r := by
  simp only [Host.Core.run, h]

/-- The machine's run of `k` steps, typed by the model's own names. -/
def runSteps (k : Nat) (s : State) : Host.Outcome State Fault Refusal := Host.Core.run Sys2Proof.core k s

theorem runSteps_eq (k : Nat) (s : State) : Host.Core.run Sys2Proof.core k s = runSteps k s := rfl

theorem runSteps_zero (s : State) : runSteps 0 s = .next s := rfl

/-- One step more: a step, then the rest. -/
theorem runSteps_succ (k : Nat) (s : State) : runSteps (k + 1) s = andThen (step s) (runSteps k) := by
  cases h : step s with
  | next t => exact run_next Sys2Proof.core k s t h
  | fault f => exact run_fault Sys2Proof.core k s f h
  | refused r => exact run_refused Sys2Proof.core k s r h

end Sys2Proof.Machine
end

