-- ==== Sys2Proof/Laws/Decode.lean ====
section
/-! SUPPORT. Words and their fields (spec/30_encoding.md R80), and which words select a row of the opcode map (R83). -/

namespace Sys2Proof

theorem countOk_iff (k : Nat) : countOk k = true ↔ 1 ≤ k ∧ k ≤ 8 := by
  rw [countOk, Bool.and_eq_true, decide_eq_true_eq, decide_eq_true_eq]
  exact Iff.rfl

/-- The count an assembled KM1 field gives back (R82, R88). -/
theorem km1Of_toNat {k : Nat} (h : countOk k = true) : (km1Of k).toNat + 1 = k := by
  obtain ⟨h1, h2⟩ := (countOk_iff k).1 h
  simp only [km1Of, BitVec.toNat_ofNat]
  omega

/-- A word from its four fields (R80). -/
def fieldsWord (op : BitVec 8) (km1 : BitVec 3) (d : Byte) (rsv : BitVec 13) : Word :=
  formatC op km1 d ||| (rsv.setWidth 32 <<< 19)

theorem opField_fieldsWord (op : BitVec 8) (km1 : BitVec 3) (d : Byte) (rsv : BitVec 13) :
    opField (fieldsWord op km1 d rsv) = op := by
  ext i hi
  simp only [opField, fieldsWord, formatC, BitVec.getElem_extractLsb']
  interval_cases i <;> simp

theorem dField_fieldsWord (op : BitVec 8) (km1 : BitVec 3) (d : Byte) (rsv : BitVec 13) :
    dField (fieldsWord op km1 d rsv) = d := by
  ext i hi
  simp only [dField, fieldsWord, formatC, BitVec.getElem_extractLsb']
  interval_cases i <;> simp

theorem km1Field_fieldsWord (op : BitVec 8) (km1 : BitVec 3) (d : Byte) (rsv : BitVec 13) :
    km1Field (fieldsWord op km1 d rsv) = km1 := by
  ext i hi
  simp only [km1Field, fieldsWord, formatC, BitVec.getElem_extractLsb']
  interval_cases i <;> simp

theorem rsvField_fieldsWord (op : BitVec 8) (km1 : BitVec 3) (d : Byte) (rsv : BitVec 13) :
    rsvField (fieldsWord op km1 d rsv) = rsv := by
  ext i hi
  simp only [rsvField, fieldsWord, formatC, BitVec.getElem_extractLsb']
  interval_cases i <;> simp

/-- Two words are equal exactly when their fields are. -/
theorem fieldsWord_inj (op op' : BitVec 8) (km1 km1' : BitVec 3) (d d' : Byte) (rsv rsv' : BitVec 13) :
    fieldsWord op km1 d rsv = fieldsWord op' km1' d' rsv' ↔ op = op' ∧ km1 = km1' ∧ d = d' ∧ rsv = rsv' := by
  constructor
  · intro h
    refine ⟨?_, ?_, ?_, ?_⟩
    · simpa only [opField_fieldsWord] using congrArg opField h
    · simpa only [km1Field_fieldsWord] using congrArg km1Field h
    · simpa only [dField_fieldsWord] using congrArg dField h
    · simpa only [rsvField_fieldsWord] using congrArg rsvField h
  · rintro ⟨rfl, rfl, rfl, rfl⟩; rfl

/-- Every word is the word of its fields. -/
theorem word_eq_fieldsWord (w : Word) : w = fieldsWord (opField w) (km1Field w) (dField w) (rsvField w) := by
  ext i hi
  simp only [fieldsWord, formatC, opField, km1Field, dField, rsvField]
  interval_cases i <;> simp

theorem formatC_eq_fieldsWord (op : BitVec 8) (km1 : BitVec 3) (d : Byte) :
    formatC op km1 d = fieldsWord op km1 d 0 := by
  simp [fieldsWord]

theorem and_mask_full (w : Word) :
    w &&& 0xFFFFFFFF#32 = fieldsWord (opField w) (km1Field w) (dField w) (rsvField w) := by
  rw [← word_eq_fieldsWord]
  exact BitVec.and_allOnes

theorem and_mask_kd (w : Word) : w &&& 0xFFF800FF#32 = fieldsWord (opField w) 0 0 (rsvField w) := by
  ext i hi
  simp only [fieldsWord, formatC, opField, rsvField]
  interval_cases i <;> simp

theorem and_mask_k (w : Word) : w &&& 0xFFF8FFFF#32 = fieldsWord (opField w) 0 (dField w) (rsvField w) := by
  ext i hi
  simp only [fieldsWord, formatC, opField, dField, rsvField]
  interval_cases i <;> simp

theorem and_mask_d (w : Word) : w &&& 0xFFFF00FF#32 = fieldsWord (opField w) (km1Field w) 0 (rsvField w) := by
  ext i hi
  simp only [fieldsWord, formatC, opField, km1Field, rsvField]
  interval_cases i <;> simp

/-- The masks of the opcode map, said by field (R81, R83): a word selects a row exactly when OP is the row's, RSV is zero,
and every field the row's command does not use is zero. -/
theorem selects_iff (r : OpRow) (hr : r ∈ opcodeMap) (w : Word) : r.selects w = true ↔
    opField w = r.mnemonic.op ∧ rsvField w = 0 ∧ (r.mnemonic.usesD = false → dField w = 0) ∧
      (r.mnemonic.usesKM1 = false → km1Field w = 0) := by
  have hb : r.bits = fieldsWord r.mnemonic.op 0 0 0 := by revert r; decide
  simp only [OpRow.selects, beq_iff_eq, hb]
  simp only [opcodeMap, opcodeMapBits, opcodeMapChecks, List.cons_append, List.nil_append, List.mem_cons,
    List.not_mem_nil, or_false] at hr
  rcases hr with rfl | rfl | rfl | rfl | rfl | rfl | rfl | rfl | rfl | rfl | rfl | rfl | rfl | rfl <;>
    simp only [and_mask_full, and_mask_kd, and_mask_k, and_mask_d, fieldsWord_inj, Mnemonic.usesD,
      Mnemonic.usesKM1] <;> simp <;> tauto

end Sys2Proof
end

