-- ==== Sys2Proof/Laws/Engines.lean ====
section
/-! SUPPORT. The checksum engines: one lemma per field for each named update, and what feeding a frame can do
(spec/41_crc16.md R145, spec/42_lrc.md R172, spec/43_controller.md R191 to R193). -/

namespace Sys2Proof.Machine

@[simp] theorem State.crcStep_pacc (d : Byte) (s : State) : (s.crcStep d).pacc = s.pacc := rfl
@[simp] theorem State.crcStep_pcnt (d : Byte) (s : State) : (s.crcStep d).pcnt = s.pcnt := rfl
@[simp] theorem State.crcStep_pn (d : Byte) (s : State) : (s.crcStep d).pn = s.pn := rfl
@[simp] theorem State.crcStep_un (d : Byte) (s : State) : (s.crcStep d).un = s.un := rfl
@[simp] theorem State.crcStep_uptr (d : Byte) (s : State) : (s.crcStep d).uptr = s.uptr := rfl
@[simp] theorem State.crcStep_crc (d : Byte) (s : State) : (s.crcStep d).crc = crcNext s.crc d := rfl
@[simp] theorem State.crcStep_lsum (d : Byte) (s : State) : (s.crcStep d).lsum = s.lsum := rfl
@[simp] theorem State.crcStep_expect (d : Byte) (s : State) : (s.crcStep d).expect = s.expect := rfl
@[simp] theorem State.crcStep_result (d : Byte) (s : State) : (s.crcStep d).result = s.result := rfl
@[simp] theorem State.crcStep_flen (d : Byte) (s : State) : (s.crcStep d).flen = s.flen := rfl
@[simp] theorem State.crcStep_err (d : Byte) (s : State) : (s.crcStep d).err = s.err := rfl
@[simp] theorem State.crcStep_last (d : Byte) (s : State) : (s.crcStep d).last = s.last := rfl
@[simp] theorem State.crcStep_fbuf (d : Byte) (s : State) : (s.crcStep d).fbuf = s.fbuf := rfl
@[simp] theorem State.crcStep_resetHeld (d : Byte) (s : State) : (s.crcStep d).resetHeld = s.resetHeld := rfl
@[simp] theorem State.crcStep_pending (d : Byte) (s : State) : (s.crcStep d).pending = s.pending := rfl
@[simp] theorem State.crcStep_reads (d : Byte) (s : State) : (s.crcStep d).reads = s.reads := rfl

@[simp] theorem State.lrcStep_pacc (d : Byte) (s : State) : (s.lrcStep d).pacc = s.pacc := rfl
@[simp] theorem State.lrcStep_pcnt (d : Byte) (s : State) : (s.lrcStep d).pcnt = s.pcnt := rfl
@[simp] theorem State.lrcStep_pn (d : Byte) (s : State) : (s.lrcStep d).pn = s.pn := rfl
@[simp] theorem State.lrcStep_un (d : Byte) (s : State) : (s.lrcStep d).un = s.un := rfl
@[simp] theorem State.lrcStep_uptr (d : Byte) (s : State) : (s.lrcStep d).uptr = s.uptr := rfl
@[simp] theorem State.lrcStep_crc (d : Byte) (s : State) : (s.lrcStep d).crc = s.crc := rfl
@[simp] theorem State.lrcStep_lsum (d : Byte) (s : State) : (s.lrcStep d).lsum = s.lsum + d := rfl
@[simp] theorem State.lrcStep_expect (d : Byte) (s : State) : (s.lrcStep d).expect = s.expect := rfl
@[simp] theorem State.lrcStep_result (d : Byte) (s : State) : (s.lrcStep d).result = s.result := rfl
@[simp] theorem State.lrcStep_flen (d : Byte) (s : State) : (s.lrcStep d).flen = s.flen := rfl
@[simp] theorem State.lrcStep_err (d : Byte) (s : State) : (s.lrcStep d).err = s.err := rfl
@[simp] theorem State.lrcStep_last (d : Byte) (s : State) : (s.lrcStep d).last = s.last := rfl
@[simp] theorem State.lrcStep_fbuf (d : Byte) (s : State) : (s.lrcStep d).fbuf = s.fbuf := rfl
@[simp] theorem State.lrcStep_resetHeld (d : Byte) (s : State) : (s.lrcStep d).resetHeld = s.resetHeld := rfl
@[simp] theorem State.lrcStep_pending (d : Byte) (s : State) : (s.lrcStep d).pending = s.pending := rfl
@[simp] theorem State.lrcStep_reads (d : Byte) (s : State) : (s.lrcStep d).reads = s.reads := rfl

@[simp] theorem State.feedBoth_pacc (d : Byte) (s : State) : (s.feedBoth d).pacc = s.pacc := rfl
@[simp] theorem State.feedBoth_pcnt (d : Byte) (s : State) : (s.feedBoth d).pcnt = s.pcnt := rfl
@[simp] theorem State.feedBoth_pn (d : Byte) (s : State) : (s.feedBoth d).pn = s.pn := rfl
@[simp] theorem State.feedBoth_un (d : Byte) (s : State) : (s.feedBoth d).un = s.un := rfl
@[simp] theorem State.feedBoth_uptr (d : Byte) (s : State) : (s.feedBoth d).uptr = s.uptr := rfl
@[simp] theorem State.feedBoth_crc (d : Byte) (s : State) : (s.feedBoth d).crc = crcNext s.crc d := rfl
@[simp] theorem State.feedBoth_lsum (d : Byte) (s : State) : (s.feedBoth d).lsum = s.lsum + d := rfl
@[simp] theorem State.feedBoth_expect (d : Byte) (s : State) : (s.feedBoth d).expect = s.expect := rfl
@[simp] theorem State.feedBoth_result (d : Byte) (s : State) : (s.feedBoth d).result = s.result := rfl
@[simp] theorem State.feedBoth_flen (d : Byte) (s : State) : (s.feedBoth d).flen = s.flen := rfl
@[simp] theorem State.feedBoth_err (d : Byte) (s : State) : (s.feedBoth d).err = s.err := rfl
@[simp] theorem State.feedBoth_last (d : Byte) (s : State) : (s.feedBoth d).last = s.last := rfl
@[simp] theorem State.feedBoth_fbuf (d : Byte) (s : State) : (s.feedBoth d).fbuf = s.fbuf := rfl
@[simp] theorem State.feedBoth_resetHeld (d : Byte) (s : State) : (s.feedBoth d).resetHeld = s.resetHeld := rfl
@[simp] theorem State.feedBoth_pending (d : Byte) (s : State) : (s.feedBoth d).pending = s.pending := rfl
@[simp] theorem State.feedBoth_reads (d : Byte) (s : State) : (s.feedBoth d).reads = s.reads := rfl

@[simp] theorem State.seedEngines_pacc (s : State) : (s.seedEngines).pacc = s.pacc := rfl
@[simp] theorem State.seedEngines_pcnt (s : State) : (s.seedEngines).pcnt = s.pcnt := rfl
@[simp] theorem State.seedEngines_pn (s : State) : (s.seedEngines).pn = s.pn := rfl
@[simp] theorem State.seedEngines_un (s : State) : (s.seedEngines).un = s.un := rfl
@[simp] theorem State.seedEngines_uptr (s : State) : (s.seedEngines).uptr = s.uptr := rfl
@[simp] theorem State.seedEngines_crc (s : State) : (s.seedEngines).crc = Config.crcSeed := rfl
@[simp] theorem State.seedEngines_lsum (s : State) : (s.seedEngines).lsum = 0x00#8 := rfl
@[simp] theorem State.seedEngines_expect (s : State) : (s.seedEngines).expect = s.expect := rfl
@[simp] theorem State.seedEngines_result (s : State) : (s.seedEngines).result = s.result := rfl
@[simp] theorem State.seedEngines_flen (s : State) : (s.seedEngines).flen = s.flen := rfl
@[simp] theorem State.seedEngines_err (s : State) : (s.seedEngines).err = s.err := rfl
@[simp] theorem State.seedEngines_last (s : State) : (s.seedEngines).last = s.last := rfl
@[simp] theorem State.seedEngines_fbuf (s : State) : (s.seedEngines).fbuf = s.fbuf := rfl
@[simp] theorem State.seedEngines_resetHeld (s : State) : (s.seedEngines).resetHeld = s.resetHeld := rfl
@[simp] theorem State.seedEngines_pending (s : State) : (s.seedEngines).pending = s.pending := rfl
@[simp] theorem State.seedEngines_reads (s : State) : (s.seedEngines).reads = s.reads := rfl

/-- Feeding a frame changes nothing but the two engines' registers (R190, R193). -/
theorem feedFrame_ok (n i : Nat) (s t : State) (h : feedFrame n i s = .ok t) :
    t = { s with crc := t.crc, lsum := t.lsum } := by
  induction n generalizing i s with
  | zero => simp only [feedFrame, Except.ok.injEq] at h; subst h; rfl
  | succ n ih =>
    simp only [feedFrame] at h
    obtain ⟨b, -, h⟩ := bind_ok h
    have := ih _ _ h
    rw [this]; rfl

/-- `r` with the engines' registers of `s`: what feeding a byte reads and writes. -/
def State.withEnginesOf (r s : State) : State := { r with crc := s.crc, lsum := s.lsum }

/-- Feeding a frame depends on the engines' registers and the frame buffer alone (R190, R193). -/
theorem feedFrame_withEnginesOf (n i : Nat) (r s : State) (h : r.fbuf = s.fbuf) :
    feedFrame n i (r.withEnginesOf s) = (feedFrame n i s).map r.withEnginesOf := by
  induction n generalizing i s with
  | zero => rfl
  | succ n ih =>
    have hr : fbufRead (r.withEnginesOf s) i = fbufRead s i := fbufRead_congr h i
    simp only [feedFrame, hr]
    cases fbufRead s i with
    | error e => rfl
    | ok b => exact ih (i + 1) (s.feedBoth b) h

/-- Feeding a frame faults only where a byte it reads does (R193). -/
theorem feedFrame_error (n i : Nat) (s : State) (f : Fault) (h : feedFrame n i s = .error f) :
    ∃ j, i ≤ j ∧ j < i + n ∧ fbufRead s j = .error f := by
  induction n generalizing i s with
  | zero => simp [feedFrame] at h
  | succ n ih =>
    simp only [feedFrame] at h
    rcases bind_error h with h | ⟨b, -, h⟩
    · exact ⟨i, le_refl i, by omega, h⟩
    · obtain ⟨j, h1, h2, h3⟩ := ih _ _ h
      exact ⟨j, by omega, by omega, by simpa [fbufRead] using h3⟩

end Sys2Proof.Machine
end

