-- ==== Sys2Proof/Laws/Packer.lean ====
section
/-! SUPPORT. What the packer's and unpacker's shared operations can do (spec/40_bit_packer.md R104 to R109). -/

namespace Sys2Proof.Machine

/-- AccPush of a bit that does not complete the group (R104). -/
theorem accPush_partial (b : Bool) (s : State) (h : s.pcnt ≠ 7#3) :
    accPush b s = .ok { s with pacc := s.pacc ||| ((BitVec.ofBool b).setWidth 8 <<< s.pcnt.toNat),
                               pcnt := s.pcnt + 1#3 } := by
  simp [accPush, h]

/-- AccPush of the bit that completes the group (R104). -/
theorem accPush_full (b : Bool) (s : State) (h : s.pcnt = 7#3) (hn : s.pn.toNat < 255) :
    accPush b s = .ok { s with
      fbuf := s.fbuf.write (1 + s.pn.toNat) (s.pacc ||| ((BitVec.ofBool b).setWidth 8 <<< s.pcnt.toNat)),
      pn := s.pn + 1#8, pacc := 0x00#8, pcnt := 0#3 } := by
  have : 1 + s.pn.toNat < Config.fbufBytes := by simp only [Config.fbufBytes]; omega
  simp [accPush, h, fbufWrite, this]

/-- AccPush changes the accumulator, the counters and the frame buffer, and nothing else (R104). -/
theorem accPush_ok (b : Bool) (s t : State) (h : accPush b s = .ok t) :
    t = { s with pacc := t.pacc, pcnt := t.pcnt, pn := t.pn, fbuf := t.fbuf } := by
  simp only [accPush] at h
  split at h
  · obtain ⟨s', h1, h2⟩ := bind_ok h
    obtain ⟨-, rfl⟩ := (fbufWrite_ok_iff _ _ _ _).1 h1
    cases h2; rfl
  · cases h; rfl

/-- Pushing flags changes the accumulator, the counters and the frame buffer, and nothing else (R105). -/
theorem pushFlags_ok (bs : List Bool) (s t : State) (h : pushFlags bs s = .ok t) :
    t = { s with pacc := t.pacc, pcnt := t.pcnt, pn := t.pn, fbuf := t.fbuf } := by
  induction bs generalizing s with
  | nil => cases h; rfl
  | cons b bs ih =>
    obtain ⟨s', h1, h2⟩ := bind_ok h
    have e1 := accPush_ok b s s' h1
    have e2 := ih s' h2
    rw [e2, e1]

/-- `r` with the packer's registers and frame buffer of `s`: what AccPush reads and writes. -/
def State.withPackerOf (r s : State) : State :=
  { r with pacc := s.pacc, pcnt := s.pcnt, pn := s.pn, fbuf := s.fbuf }

/-- AccPush depends on the packer's registers and the frame buffer alone (R104). -/
theorem accPush_withPackerOf (b : Bool) (r s : State) :
    accPush b (r.withPackerOf s) = (accPush b s).map r.withPackerOf := by
  have hp : (r.withPackerOf s).pcnt = s.pcnt := rfl
  have hn : (r.withPackerOf s).pn = s.pn := rfl
  by_cases h : s.pcnt = 7#3
  · by_cases hi : 1 + s.pn.toNat < Config.fbufBytes
    · simp only [accPush, fbufWrite, hp, hn, h, hi, if_true]; rfl
    · simp only [accPush, fbufWrite, hp, hn, h, hi, if_true, if_false]; rfl
  · rw [accPush_partial b _ h, accPush_partial b _ (by rw [hp]; exact h)]; rfl

/-- Pushing flags depends on the packer's registers and the frame buffer alone (R105). -/
theorem pushFlags_withPackerOf (bs : List Bool) (r s : State) :
    pushFlags bs (r.withPackerOf s) = (pushFlags bs s).map r.withPackerOf := by
  induction bs generalizing s with
  | nil => rfl
  | cons b bs ih =>
    simp only [pushFlags, accPush_withPackerOf]
    cases accPush b s with
    | error e => rfl
    | ok t => exact ih t

/-- The bits gathered depend on the frame buffer alone (R109). -/
theorem gatherBits_congr {s t : State} (h : s.fbuf = t.fbuf) (p k : Nat) : gatherBits s p k = gatherBits t p k := by
  induction k with
  | zero => rfl
  | succ k ih => simp only [gatherBits, ih, fbufRead_congr h]

/-- Gathering bits faults only where a byte it reads does (R109). -/
theorem gatherBits_error (s : State) (p k : Nat) (f : Fault) (h : gatherBits s p k = .error f) :
    ∃ j, j < k ∧ fbufRead s (frameIndex (p + j)) = .error f := by
  induction k with
  | zero => cases h
  | succ k ih =>
    rcases bind_error h with h | ⟨r, -, h⟩
    · obtain ⟨j, hj, hf⟩ := ih h
      exact ⟨j, by omega, hf⟩
    · rcases bind_error h with h | ⟨b, -, h⟩
      · exact ⟨k, by omega, h⟩
      · cases h

end Sys2Proof.Machine
end

