-- ==== Sys2Proof/Laws/PerInstr.lean ====
section
/-! SUPPORT. The family EncodeSelects: the word a well-formed command encodes to selects the command's own row of the
opcode map (spec/30_encoding.md R83, R88). -/

namespace Sys2Proof.Laws.EncodeSelects

/-- The command's word selects a row of the map, and that row has the command's mnemonic. -/
def Statement (i : Instr) : Prop :=
  i.wellFormed = true → ∃ r ∈ opcodeMap, r.mnemonic = i.mnemonic ∧ r.selects (encode i) = true

/-- A word of format C under a mask that covers OP and RSV and leaves the used fields free. -/
theorem formatC_masked (op : BitVec 8) (km1 : BitVec 3) (d : Byte) :
    formatC op km1 d &&& 0xFFF800FF#32 = op.setWidth 32 := by
  ext i hi
  interval_cases i <;> simp [formatC]

theorem formatC_masked_d (op : BitVec 8) (d : Byte) :
    formatC op 0 d &&& 0xFFFF00FF#32 = op.setWidth 32 := by
  ext i hi
  interval_cases i <;> simp [formatC]

theorem formatC_masked_km1 (op : BitVec 8) (km1 : BitVec 3) :
    formatC op km1 0 &&& 0xFFF8FFFF#32 = op.setWidth 32 := by
  ext i hi
  interval_cases i <;> simp [formatC]

theorem packReset : Statement .packReset := fun _ => by decide
theorem packBits (k : Nat) (d : Byte) : Statement (.packBits k d) := fun _ =>
  ⟨⟨.packBits, 0x00000002#32, 0xFFF800FF#32⟩, by decide, rfl,
    by simp [OpRow.selects, encode, formatC_masked]⟩
theorem packFinish : Statement .packFinish := fun _ => by decide
theorem unpackStart : Statement .unpackStart := fun _ => by decide
theorem unpackBits (k : Nat) : Statement (.unpackBits k) := fun _ =>
  ⟨⟨.unpackBits, 0x00000009#32, 0xFFF8FFFF#32⟩, by decide, rfl,
    by simp only [OpRow.selects, encode, formatC_masked_km1]; decide⟩
theorem crcInit : Statement .crcInit := fun _ => by decide
theorem crcByte (d : Byte) : Statement (.crcByte d) := fun _ =>
  ⟨⟨.crcByte, 0x00000011#32, 0xFFFF00FF#32⟩, by decide, rfl,
    by simp only [OpRow.selects, encode, formatC_masked_d]; decide⟩
theorem crcCheck : Statement .crcCheck := fun _ => by decide
theorem lrcInit : Statement .lrcInit := fun _ => by decide
theorem lrcByte (d : Byte) : Statement (.lrcByte d) := fun _ =>
  ⟨⟨.lrcByte, 0x00000019#32, 0xFFFF00FF#32⟩, by decide, rfl,
    by simp only [OpRow.selects, encode, formatC_masked_d]; decide⟩
theorem lrcCheck : Statement .lrcCheck := fun _ => by decide
theorem ckInit : Statement .ckInit := fun _ => by decide
theorem ckByte (d : Byte) : Statement (.ckByte d) := fun _ =>
  ⟨⟨.ckByte, 0x00000021#32, 0xFFFF00FF#32⟩, by decide, rfl,
    by simp only [OpRow.selects, encode, formatC_masked_d]; decide⟩
theorem ckFrame : Statement .ckFrame := fun _ => by decide

end Sys2Proof.Laws.EncodeSelects
end

