-- ==== Sys2Proof/Tests/Slice0.lean ====
section
/-! SUPPORT. The model's own tests: expected values from spec/95_test_vectors.md, and for every statement of
Certificates/Slice0/Obligations.lean with hypotheses a witness that meets them. -/

namespace Sys2Proof.Tests
open Sys2Proof Sys2Proof.Machine

/-! ## Helpers -/

/-- A frame buffer whose first bytes are `bs`. -/
def bufferOf (bs : List Byte) : Memory := bs.zipIdx.map (fun c => (c.2, c.1))

/-- The reset state with a frame of the bytes `bs` in the buffer, FLEN its length. -/
def frameState (bs : List Byte) : State :=
  { State.reset with fbuf := bufferOf bs, flen := BitVec.ofNat 9 bs.length }

/-- The reset state with a packing session in progress. -/
def packState (acc : Byte) (cnt : BitVec 3) (n : BitVec 8) : State :=
  { State.reset with pacc := acc, pcnt := cnt, pn := n }

/-- The reset state with an unpacking session in progress over the frame `bs`. -/
def unpackState (bs : List Byte) (n : BitVec 8) (p : BitVec 11) : State :=
  { frameState bs with un := n, uptr := p }

/-- The reset state with given checksum registers and expected value. -/
def engineState (c : BitVec 16) (l : Byte) (e : BitVec 16) : State :=
  { State.reset with crc := c, lsum := l, expect := e }

/-- What a view shows of the next state an outcome answers. -/
def seen {α : Type} (view : State → α) (o : Host.Outcome State Fault Refusal) : Option α := (nextOf o).map view

/-- The packer's registers and LAST. -/
def packView (s : State) : Byte × BitVec 3 × BitVec 8 × BitVec 3 := (s.pacc, s.pcnt, s.pn, s.last)

/-- The sequence of a 256-byte frame of all ones. -/
def fullFrame : List Byte := List.replicate 256 0xFF#8

/-- A state at the far end of every element's range. -/
def extremeState : State :=
  { State.reset with
    pacc := 0x7F#8, pcnt := 7#3, pn := 254#8, un := 255#8, uptr := 2040#11, flen := 256#9, err := 0b11111#5,
    last := 5#3, fbuf := [(0, 0xFF#8), (255, 0x12#8)] }

/-! ## Well-formedness: what the check refuses (R88) -/

theorem test_packBits_zero_illFormed : (Instr.packBits 0 0x01#8).wellFormed = false := by decide
theorem test_packBits_nine_illFormed : (Instr.packBits 9 0x01#8).wellFormed = false := by decide
theorem test_unpackBits_zero_illFormed : (Instr.unpackBits 0).wellFormed = false := by decide
theorem test_unpackBits_nine_illFormed : (Instr.unpackBits 9).wellFormed = false := by decide
theorem test_counts_wellFormed :
    [(Instr.packBits 1 0#8), .packBits 8 0xFF#8, .unpackBits 1, .unpackBits 8].all Instr.wellFormed = true := by decide

/-! ## Decoding: the words of spec/95_test_vectors.md 2.1, fields written out from R80 -/

/-- RSV 0, KM1 4, D 0x19, OP 0x02. -/
theorem test_decode_packer_bitwise :
    decode 0b0000000000000_100_00011001_00000010#32 = .ok (.packBits 5 0x19#8) := by decide
/-- RSV 0, KM1 2, D 0, OP 0x09. -/
theorem test_decode_unpacker_bitwise :
    decode 0b0000000000000_010_00000000_00001001#32 = .ok (.unpackBits 3) := by decide
/-- RSV 0, KM1 0, D 0xFF, OP 0x11. -/
theorem test_decode_crc_bitwise :
    decode 0b0000000000000_000_11111111_00010001#32 = .ok (.crcByte 0xFF#8) := by decide
/-- RSV 0, KM1 0, D 0x80, OP 0x19. -/
theorem test_decode_lrc_bitwise :
    decode 0b0000000000000_000_10000000_00011001#32 = .ok (.lrcByte 0x80#8) := by decide
/-- RSV 0, KM1 0, D 0xAA, OP 0x21. -/
theorem test_decode_controller_bitwise :
    decode 0b0000000000000_000_10101010_00100001#32 = .ok (.ckByte 0xAA#8) := by decide

theorem test_encode_table :
    [Instr.packReset, .packBits 1 0x01#8, .packBits 3 0x05#8, .packBits 8 0xFF#8, .packFinish, .unpackStart,
      .unpackBits 1, .unpackBits 8].map encode =
    [0x00000001#32, 0x00000102#32, 0x00020502#32, 0x0007FF02#32, 0x00000003#32, 0x00000008#32, 0x00000009#32,
      0x00070009#32] := by decide

theorem test_encode_table_checks :
    [Instr.crcInit, .crcByte 0x01#8, .crcCheck, .lrcInit, .lrcByte 0x80#8, .lrcCheck, .ckInit, .ckByte 0xAA#8,
      .ckFrame].map encode =
    [0x00000010#32, 0x00000111#32, 0x00000012#32, 0x00000018#32, 0x00008019#32, 0x0000001A#32, 0x00000020#32,
      0x0000AA21#32, 0x00000022#32] := by decide

/-- The illegal words of 2.1, with the ground of R84 each stands on. -/
theorem test_decode_illegal_unlisted :
    [0x00000000#32, 0x00000004#32, 0x000000FF#32, 0x00000023#32].all
      (fun w => decide (decode w = .error .unlistedOpcode)) = true := by decide
theorem test_decode_illegal_reserved :
    [0x00080002#32, 0x80000010#32].all (fun w => decide (decode w = .error .reservedNotZero)) = true := by decide
theorem test_decode_illegal_unusedD :
    [0x00000101#32, 0x00000109#32].all (fun w => decide (decode w = .error .unusedD)) = true := by decide
theorem test_decode_illegal_unusedKM1 :
    [0x00010003#32, 0x00010011#32].all (fun w => decide (decode w = .error .unusedKM1)) = true := by decide

/-- The edges of each range of unlisted opcodes in R84(a). -/
theorem test_decode_illegal_edges :
    [0x04, 0x07, 0x0A, 0x0F, 0x13, 0x17, 0x1B, 0x1F, 0x23, 0xFF].all
      (fun n => decide (decode (BitVec.ofNat 32 n) = .error .unlistedOpcode)) = true := by decide

theorem test_decodeTableWord : decodeTableWord 32 0x00071202 = some (.packBits 8 0x12#8) := by decide

/-! ## The assembler (R88, R89) -/

theorem test_assemble_hex : assembleLine "PACK.BITS 5, 0x19".toList = some [0x00041902#32] := by decide
theorem test_assemble_pseudo :
    assembleLine "CRC.BYTES 0x01, 0x03".toList = some [0x00000111#32, 0x00000311#32] := by decide
theorem test_assemble_rejects :
    ["PACK.BITS 0, 1", "PACK.BITS 9, 1", "PACK.BIT 2", "CRC.BYTE 0x100", "UNPACK.BITS 1, 3", "CRC.INIT 5"].all
      (fun l => decide (assembleLine l.toList = none)) = true := by decide

/-! ## One step of each command (2.3 to 2.9) -/

theorem test_packReset : seen packView (exec .packReset (packState 0x05 3 2)) = some (0x00#8, 0#3, 0#8, 0#3) := by
  decide
theorem test_packBits_ignores_high_flags :
    seen packView (exec (.packBits 3 0xFD#8) State.reset) = some (0x05#8, 3#3, 0#8, 0#3) := by decide
theorem test_packBits_splits_group :
    seen (fun t => (packView t, t.fbuf)) (exec (.packBits 8 0xFF#8) (packState 0x05 3 0)) =
      some ((0x07#8, 3#3, 1#8, 0#3), [(1, 0xFD#8)]) := by decide
theorem test_packBits_last_byte :
    seen (fun t => (packView t, t.fbuf)) (exec (.packBits 1 0x01#8) (packState 0x7F 7 254)) =
      some ((0x00#8, 0#3, 255#8, 0#3), [(255, 0xFF#8)]) := by decide
theorem test_packBits_overflow :
    nextOf (exec (.packBits 2 0x03#8) (packState 0x7F 7 254)) =
      some { packState 0x7F 7 254 with err := 0b00100#5, last := 3#3 } := by decide
theorem test_packFinish_partial :
    seen (fun t => (packView t, t.fbuf, t.flen, t.result)) (exec .packFinish (packState 0x02 2 1)) =
      some ((0x00#8, 0#3, 0#8, 0#3), [(0, 0x02#8), (2, 0x02#8)], 3#9, 2#32) := by decide
theorem test_packFinish_full :
    seen (fun t => (t.fbuf, t.flen, t.result)) (exec .packFinish (packState 0x00 0 255)) =
      some ([(0, 0xFF#8)], 256#9, 255#32) := by decide

theorem test_unpackStart :
    seen (fun t => (t.un, t.uptr, t.result, t.last)) (exec .unpackStart (unpackState [0x02, 0xCD, 0x01] 9 5)) =
      some (2#8, 0#11, 2#32, 0#3) := by decide
theorem test_unpackStart_tooShort :
    nextOf (exec .unpackStart (frameState [0x03, 0x01])) =
      some { frameState [0x03, 0x01] with err := 0b00010#5, last := 2#3 } := by decide
theorem test_unpackBits_spans_bytes :
    seen (fun t => (t.result, t.uptr, t.last)) (exec (.unpackBits 2) (unpackState [0x02, 0xFF, 0x01] 2 7)) =
      some (0x03#32, 9#11, 0#3) := by decide
theorem test_unpackBits_underrun :
    nextOf (exec (.unpackBits 1) (unpackState [0x02, 0xCD, 0x01] 2 16)) =
      some { unpackState [0x02, 0xCD, 0x01] 2 16 with err := 0b01000#5, last := 4#3 } := by decide

theorem test_crcInit : seen State.crc (exec .crcInit (engineState 0x1234 0x56 0)) = some 0xFFFF#16 := by decide
theorem test_crcByte :
    seen (fun t => (t.crc, t.lsum)) (exec (.crcByte 0x80#8) (engineState 0xABCD 0x56 0)) =
      some (0x356B#16, 0x56#8) := by decide
theorem test_crcCheck_equal :
    seen (fun t => (t.result, t.crc)) (exec .crcCheck (engineState 0xCDC5 0 0xCDC5)) = some (1#32, 0xCDC5#16) := by
  decide
theorem test_crcCheck_swapped : seen State.result (exec .crcCheck (engineState 0xCDC5 0 0xC5CD)) = some 0#32 := by
  decide

theorem test_lrcInit :
    seen (fun t => (t.crc, t.lsum)) (exec .lrcInit (engineState 0x1234 0x56 0)) = some (0x1234#16, 0x00#8) := by decide
theorem test_lrcByte_carry : seen State.lsum (exec (.lrcByte 0x01#8) (engineState 0 0xFF 0)) = some 0x00#8 := by decide
theorem test_lrcByte_register :
    seen State.lrcWord (exec (.lrcByte 0x7F#8) (engineState 0 0x7F 0)) = some 0x000002FE#32 := by decide
theorem test_lrcCheck_equal : seen State.result (exec .lrcCheck (engineState 0 0x0E 0x00F2)) = some 1#32 := by decide
theorem test_lrcCheck_high_byte : seen State.result (exec .lrcCheck (engineState 0 0x00 0x0100)) = some 0#32 := by decide

theorem test_ckInit :
    seen (fun t => (t.crc, t.lsum)) (exec .ckInit (engineState 0x1234 0x56 0)) = some (0xFFFF#16, 0x00#8) := by decide
theorem test_ckByte :
    seen (fun t => (t.crc, t.lrcWord)) (exec (.ckByte 0x01#8) State.reset) = some (0x807E#16, 0x0000FF01#32) := by decide
theorem test_ckFrame :
    seen (fun t => (t.crc, t.lrcWord)) (exec .ckFrame (frameState [0x02, 0xCD, 0x01])) =
      some (0x5045#16, 0x000030D0#32) := by decide
theorem test_ckFrame_empty :
    seen (fun t => (t.crc, t.lrcWord)) (exec .ckFrame (engineState 0x1234 0x56 0)) =
      some (0xFFFF#16, 0x00000000#32) := by decide

/-- 2.9: decode comes before the command's own errors. -/
theorem test_priority_unpackStart :
    seen State.last (execute 0x00000108#32 State.reset) = some 5#3 := by decide
theorem test_priority_packBits :
    seen State.last (execute 0x00080102#32 (packState 0x00 0 255)) = some 5#3 := by decide
/-- 2.9: a sticky bit outlives a success. -/
theorem test_sticky :
    seen (fun t => (t.err, t.last)) (exec .crcInit { State.reset with err := 0b00001#5, last := 1#3 }) =
      some (0b00001#5, 0#3) := by decide

/-! ## The host window (2.8) -/

theorem test_status_write :
    seen State.reads (performAll [hostW 0x004 0x00000705#32, hostR 0x004]
      { State.reset with err := 0b11111#5, last := 3#3 }) = some [0x0000031A#32] := by decide
theorem test_flen_write :
    seen State.reads (performAll [hostW 0x00C 0x000001FF#32, hostR 0x00C, hostW 0x00C 0xFFFFFEFF#32, hostR 0x00C]
      State.reset) = some [0x00000100#32, 0x000000FF#32] := by decide
theorem test_fbuf_window_order :
    seen (fun t => (t.fbuf, t.reads)) (performAll [hostW 0x100 0x44332211#32, hostR 0x100] State.reset) =
      some ([(0, 0x11#8), (1, 0x22#8), (2, 0x33#8), (3, 0x44#8)], [0x44332211#32]) := by decide
theorem test_fbuf_window_top :
    seen State.fbuf (perform (hostW 0x1FC 0xAABBCCDD#32) State.reset) =
      some [(252, 0xDD#8), (253, 0xCC#8), (254, 0xBB#8), (255, 0xAA#8)] := by decide
theorem test_fbuf_unwritten : perform (hostR 0x100) State.reset = .fault (.unwrittenByte 0) := rfl
theorem test_refused_accesses :
    perform (.write 0x101 .word 0#32) State.reset = .refused .misalignedAccess ∧
    perform (.read 0x100 .byte) State.reset = .refused .accessWidth ∧
    perform (.read 0x004 .half) State.reset = .refused .accessWidth ∧
    perform (.read 0x200 .word) State.reset = .refused .outsideWindow := ⟨rfl, rfl, rfl, rfl⟩
theorem test_read_only :
    seen State.reads (performAll [hostW 0x008 0x1234#32, hostR 0x008, hostW 0x018 0x1234#32, hostR 0x018,
      hostW 0x010 0xFFFFFFFF#32, hostR 0x010, hostW 0x024 5#32, hostR 0x024, hostR 0x0FC] State.reset) =
      some [0#32, 0xFFFF#32, 0#32, 0#32, 0#32] := by decide

/-! ## The reference functions (2.2, 2.3) -/

theorem test_pack : pack [true, false, true, true, false, false, true, true, true, false] = [0x02, 0xCD, 0x01] := by
  decide
theorem test_unpack : unpack [0x01, 0x80, 0xAA] =
    .ok ([false, false, false, false, false, false, false, true], 1) := by decide
theorem test_unpack_errors :
    unpack [] = .error .emptyInput ∧ unpack [0x02, 0xFF] = .error .inputTooShort := by decide
theorem test_computeCRC : computeCRC [0x31, 0x32, 0x33, 0x34, 0x35, 0x36, 0x37, 0x38, 0x39] = 0x4B37#16 := by decide
theorem test_computeLRC : computeLRC [0x01, 0x03, 0x00, 0x00, 0x00, 0x0A] = 0xF2#8 := by decide

/-! ## Witnesses: encoding -/

theorem witness_DecodeOfEncode :
    (Instr.packBits 1 0x00#8).wellFormed = true ∧ (Instr.packBits 8 0xFF#8).wellFormed = true ∧
    (Instr.unpackBits 1).wellFormed = true ∧ (Instr.unpackBits 8).wellFormed = true := by decide

theorem witness_EncodeOfDecode : decode 0x0007FF02#32 = .ok (.packBits 8 0xFF#8) := by decide

theorem witness_EveryWordExecutesOneRowOrIsIllegal :
    (∃ r ∈ opcodeMap, r.selects 0x00041902#32 = true) ∧ ∀ r ∈ opcodeMap, r.selects 0x00080002#32 = false := by decide

theorem witness_IllegalEncodings :
    (opField 0x00000023#32).toNat ≥ 0x23 ∧ rsvField 0x00080002#32 ≠ 0 ∧ dField 0x00000109#32 ≠ 0 ∧
    km1Field 0x00010011#32 ≠ 0 := by decide

theorem witness_AssemblerEncodes :
    (Instr.packBits 8 0xFF#8).wellFormed = true ∧
    assembleLine "PACK.BITS 8, 255".toList = some [0x0007FF02#32] := by decide

/-! ## Witnesses: steps, reset, the window -/

theorem witness_StepRunsDecodedCommand :
    let s := { State.reset with pending := [.write 0x000 .word 0x00000012#32] }
    s.resetHeld = false ∧ s.pending = .write 0x000 .word 0x00000012#32 :: [] ∧
    decode 0x00000012#32 = .ok .crcCheck := by decide

theorem witness_FetchWordIsRunNext : decodeTableWord 32 0x0007FF02 = some (.packBits 8 0xFF#8) := by decide

theorem witness_IdleHoldsState : State.reset.pending = [] := rfl

theorem witness_AccessDuringResetIsRefused :
    ∃ t u, perform (.reset true) extremeState = .next t ∧ perform (.reset false) t = .next u ∧ t.resetHeld = true ∧
      u.resetHeld = false ∧ 0x1FC % 4 = 0 := ⟨_, _, rfl, rfl, rfl, rfl, rfl⟩

theorem witness_StepKeepsInvariant :
    extremeState.Inv ∧
    ∃ t, step { extremeState with pending := [.write 0x000 .word 0x00000102#32] } = .next t ∧ t.pn = 255#8 :=
  ⟨by decide, _, rfl, by decide⟩

theorem witness_CanonicalMemoryIsUnique :
    let m := (Memory.write [] 255 0xAA#8).write 0 0x11#8
    let m' := (Memory.write [] 0 0x11#8).write 255 0xAA#8
    m.wf ∧ m'.wf ∧ ∀ i, m.read i = m'.read i :=
  ⟨by decide, by decide, fun _ => rfl⟩

theorem witness_OnlyAdmittedAccessesAreServed :
    State.reset.resetHeld = false ∧ (0x1FC % 4 = 0 ∧ 0x1FC ≤ 0x1FC) ∧ ¬ 0x200 ≤ 0x1FC ∧ ¬ 0x1FE % 4 = 0 ∧
    AccessWidth.half ≠ .word := by decide

theorem witness_ReadsHaveNoSideEffect :
    ∃ t, perform (.read 0x018 .word) State.reset = .next t ∧ t.reads = [0x0000FFFF#32] := ⟨_, rfl, by decide⟩

/-- For CmdRegister, StatusRegister, ReadOnlyRegisters and FlenAndExpectRegisters. -/
theorem witness_registers : extremeState.resetHeld = false := rfl

theorem witness_ReservedOffsets :
    extremeState.resetHeld = false ∧ (0x024 ≤ 0x024 ∧ 0x024 ≤ 0x0FC ∧ 0x024 % 4 = 0) ∧
    (0x024 ≤ 0x0FC ∧ 0x0FC ≤ 0x0FC ∧ 0x0FC % 4 = 0) := by decide

/-- Bytes 0 to 3 written, the top word's bytes not. -/
theorem witness_FbufWindow :
    let s := frameState [0x11, 0x22, 0x33, 0x44]
    s.resetHeld = false ∧ s.fbuf.read (4 * 0) = some 0x11#8 ∧ s.fbuf.read (4 * 0 + 1) = some 0x22#8 ∧
    s.fbuf.read (4 * 0 + 2) = some 0x33#8 ∧ s.fbuf.read (4 * 0 + 3) = some 0x44#8 ∧
    63 < 64 ∧ s.fbuf.read (4 * 63 + 3) = none := by decide

/-! ## Witnesses: errors and outcomes -/

theorem witness_CommandsReportOneOutcome :
    (∃ t, execute 0x00000010#32 State.reset = .next t ∧ t.last = 0#3) ∧
    (∃ t, execute 0x00000000#32 State.reset = .next t ∧ t.last = 5#3) ∧
    (∃ t, perform (.read 0x004 .word) extremeState = .next t ∧ t.last = 5#3) ∧
    ∃ t, 0x004 ≠ 0x000 ∧ perform (.write 0x004 .word 0x1F#32) extremeState = .next t ∧ t.err = 0#5 :=
  ⟨⟨_, rfl, rfl⟩, ⟨_, rfl, by decide⟩, ⟨_, rfl, rfl⟩, ⟨_, by decide, rfl, by decide⟩⟩

theorem witness_ErrorsOfEachCommand :
    (∃ t, exec (.packBits 1 0#8) (packState 0 0 255) = .next t ∧ t.last = 3#3) ∧
    (∃ t, exec .unpackStart State.reset = .next t ∧ t.last = 1#3) ∧
    (∃ t, exec .unpackStart (frameState [0x01]) = .next t ∧ t.last = 2#3) ∧
    (∃ t, exec (.unpackBits 1) State.reset = .next t ∧ t.last = 4#3) ∧
    (∃ t, exec .ckFrame State.reset = .next t ∧ t.last = 0#3) ∧
    decode 0x00000000#32 = .error .unlistedOpcode :=
  ⟨⟨_, rfl, by decide⟩, ⟨_, rfl, by decide⟩, ⟨_, rfl, by decide⟩, ⟨_, rfl, by decide⟩, ⟨_, rfl, rfl⟩, by decide⟩

theorem witness_ErrorPriority :
    decode 0x00000108#32 = .error .unusedD ∧ State.reset.flen = 0#9 ∧ State.reset.fbuf.read 0 = none := by decide

theorem witness_CommandsStopOnlyOnUnwrittenBytes :
    let s := { State.reset with flen := 1#9 }
    s.Inv ∧ Instr.unpackStart.wellFormed = true ∧ exec .unpackStart s = .fault (.unwrittenByte 0) :=
  ⟨by decide, by decide, rfl⟩

theorem witness_ResultWriters :
    (∃ t, exec .packReset extremeState = .next t) ∧ ∃ t, exec .crcCheck State.reset = .next t ∧ t.last = 0#3 :=
  ⟨⟨_, rfl⟩, ⟨_, rfl, rfl⟩⟩

/-! ## Witnesses: the packer -/

/-- The last flags that fit, and the first that do not. -/
theorem witness_PackBitsSerialIsParallel :
    8 * extremeState.pn.toNat + extremeState.pcnt.toNat + 1 = 2040 ∧
    8 * extremeState.pn.toNat + extremeState.pcnt.toNat + 2 = 2041 := by decide

theorem witness_PackFinishPublishesFrame :
    (extremeState.pcnt ≠ 0#3 ∧ extremeState.pn.toNat ≤ 254) ∧
    ((packState 0 0 255).pcnt ≠ 0#3 → (packState 0 0 255).pn.toNat ≤ 254) := by decide

/-- Two splits of the ten flags of programs P1 and P5. -/
theorem witness_PackerMatchesPack :
    State.reset.PackEmpty ∧
    (∀ c ∈ [(3, 0x05#8), (5, 0x19#8), (1, 0x01#8), (1, 0x00#8)], 1 ≤ c.1 ∧ c.1 ≤ 8) ∧
    (chunkFlags [(3, 0x05#8), (5, 0x19#8), (1, 0x01#8), (1, 0x00#8)]).length ≤ 2040 ∧
    chunkFlags [(3, 0x05#8), (5, 0x19#8), (1, 0x01#8), (1, 0x00#8)] = chunkFlags [(8, 0xCD#8), (2, 0x01#8)] := by
  decide

theorem length_chunkFlags (n k : Nat) (d : Byte) : (chunkFlags (List.replicate n (k, d))).length = n * k := by
  induction n with
  | zero => exact (Nat.zero_mul k).symm
  | succ n ih =>
    rw [List.replicate_succ, chunkFlags, List.flatMap_cons, List.length_append, ← chunkFlags, ih, Nat.succ_mul]
    simp [flagsOf, Nat.add_comm]

/-- As many flags as the packer holds. -/
theorem witness_PackerMatchesPack_full :
    (∀ c ∈ List.replicate 255 (8, 0xFF#8), 1 ≤ c.1 ∧ c.1 ≤ 8) ∧
    (chunkFlags (List.replicate 255 (8, 0xFF#8))).length = 2040 := by
  constructor
  · intro c hc
    rw [List.eq_of_mem_replicate hc]
    decide
  · exact length_chunkFlags 255 8 0xFF#8

theorem witness_PackerFrame :
    (∃ t, exec .packReset extremeState = .next t) ∧
    (∃ t, exec (.packBits 1 0x01#8) extremeState = .next t ∧ t.fbuf.read 255 = some 0xFF#8) ∧
    (∃ t, exec (.packBits 8 0x01#8) extremeState = .next t ∧ t.last = 3#3) ∧
    (∃ t, exec .packFinish extremeState = .next t ∧ t.fbuf.read 255 = some 0x7F#8) ∧
    ∃ t, exec .packFinish State.reset = .next t ∧ t.fbuf.read 1 = none :=
  ⟨⟨_, rfl⟩, ⟨_, rfl, by decide⟩, ⟨_, rfl, by decide⟩, ⟨_, rfl, by decide⟩, ⟨_, rfl, by decide⟩⟩

/-! ## Witnesses: the unpacker -/

/-- One state for each clause: empty, one byte short, exactly long enough, unwritten count byte. -/
theorem witness_UnpackStartLatchesCount :
    State.reset.flen = 0#9 ∧
    ((frameState [0x02, 0xCD]).fbuf.read 0 = some 2#8 ∧ (frameState [0x02, 0xCD]).flen.toNat < (2#8).toNat + 1) ∧
    ((frameState [0x02, 0xCD, 0x01]).fbuf.read 0 = some 2#8 ∧
      (2#8).toNat + 1 ≤ (frameState [0x02, 0xCD, 0x01]).flen.toNat) ∧
    { State.reset with flen := 256#9 }.flen ≠ 0#9 ∧ State.reset.fbuf.read 0 = none := by decide

/-- The last bits of a frame, one bit too many, and a byte of the frame unwritten. -/
theorem witness_UnpackBitsReturnsBits :
    let s := unpackState [0x02, 0xCD, 0x01] 2 8
    s.uptr.toNat + 8 = 8 * s.un.toNat ∧
    (∀ j, j < 8 → ∃ b, s.fbuf.read (1 + (s.uptr.toNat + j) / 8) = some b) ∧
    8 * s.un.toNat < (s.uptr + 1#11).toNat + 8 ∧
    (8 - 1 < 8 ∧ (unpackState [0x02, 0xCD] 2 8).fbuf.read (1 + (8 + 7) / 8) = none) :=
  ⟨by decide, fun j hj => ⟨0x01#8, by interval_cases j <;> decide⟩, by decide, by decide⟩

theorem holds_bufferOf_three (a b c : Byte) : Memory.holds (bufferOf [a, b, c]) 0 [a, b, c] := by
  intro j hj
  simp only [List.length_cons, List.length_nil] at hj
  interval_cases j <;> rfl

theorem witness_UnpackerMatchesUnpack :
    (([] : List Byte).length = State.reset.flen.toNat ∧ unpack [] = .error .emptyInput) ∧
    ([0x03#8, 0x01#8].length = (frameState [0x03, 0x01]).flen.toNat ∧
      unpack [0x03#8, 0x01#8] = .error .inputTooShort) ∧
    ([0x02#8, 0xCD#8, 0x01#8].length = (frameState [0x02, 0xCD, 0x01]).flen.toNat ∧
      unpack [0x02#8, 0xCD#8, 0x01#8] =
        .ok ([true, false, true, true, false, false, true, true] ++ true :: List.replicate 7 false, 2)) ∧
    (frameState [0x02, 0xCD, 0x01]).fbuf.holds 0 [0x02, 0xCD, 0x01] ∧
    ((∀ x ∈ [8, 3], 1 ≤ x ∧ x ≤ 8) ∧ [8, 3].sum + 5 = 8 * 2 ∧ 8 * 2 < [8, 3].sum + 6) :=
  ⟨by decide, by decide, by decide, holds_bufferOf_three 0x02 0xCD 0x01, by decide⟩

theorem witness_UnpackerFrame :
    (∃ t, exec .unpackStart State.reset = .next t ∧ t.last = 1#3) ∧
    (∃ t, exec .unpackStart (frameState [0x01, 0xA5]) = .next t ∧ t.last = 0#3) ∧
    (∃ t, exec (.unpackBits 4) (unpackState [0x01, 0xA5] 1 4) = .next t ∧ t.result = 0x0A#32) ∧
    ∃ t, exec (.unpackBits 5) (unpackState [0x01, 0xA5] 1 4) = .next t ∧ t.last = 4#3 :=
  ⟨⟨_, rfl, by decide⟩, ⟨_, rfl, by decide⟩, ⟨_, rfl, by decide⟩, ⟨_, rfl, by decide⟩⟩

theorem witness_UnpackOfPack :
    ([] : List Bool).length ≤ 2040 ∧ (List.replicate 2040 true).length ≤ 2040 :=
  ⟨Nat.zero_le _, le_of_eq List.length_replicate⟩

theorem witness_PackThenUnpackOnCore :
    State.reset.PackEmpty ∧ (∀ c ∈ [(8, 0xCD#8), (2, 0x01#8)], 1 ≤ c.1 ∧ c.1 ≤ 8) ∧
    (chunkFlags [(8, 0xCD#8), (2, 0x01#8)]).length ≤ 2040 ∧ (∀ x ∈ [8], 1 ≤ x ∧ x ≤ 8) ∧
    [8].sum + 8 ≤ 8 * packedCount (chunkFlags [(8, 0xCD#8), (2, 0x01#8)]) := by decide

/-! ## Witnesses: the checksum engines and the controller -/

theorem witness_CrcTableAsPrinted : crcTable 0#8 = 0#16 ∧ crcTable 0xFF#8 >>> 8 = crcTable 0xFF#8 >>> 8 := by decide

theorem witness_CrcMatchesComputeCrc :
    (∀ i ∈ [Instr.crcByte 0x01#8, .lrcInit, .ckByte 0x03#8, .crcCheck], seedsCrc i = false) ∧
    (State.reset.crc = 0xFFFF#16 ∧ ∃ t, execAll [.crcByte 0x01#8, .lrcInit, .ckByte 0x03#8] State.reset = .next t) ∧
    (∃ t, execAll [.crcInit, .crcByte 0x01#8] extremeState = .next t) ∧
    (∃ t, execAll [.ckInit, .crcByte 0x01#8] extremeState = .next t) ∧
    ∀ i ∈ [Instr.crcByte 0x01#8, .ckByte 0x03#8], (fedToCrc i).isSome = true :=
  ⟨by decide, ⟨rfl, _, rfl⟩, ⟨_, rfl⟩, ⟨_, rfl⟩, by decide⟩

theorem witness_CrcDetectsOneByte :
    0 < [0x01#8, 0x02#8].length ∧ [0x01#8, 0x02#8][0]? ≠ some 0x03#8 ∧
    1 < [0x01#8, 0x02#8].length ∧ [0x01#8, 0x02#8][1]? ≠ some 0x03#8 := by decide

theorem witness_LrcMatchesComputeLrc :
    (∀ i ∈ [Instr.lrcByte 0x01#8, .crcInit, .ckByte 0x03#8, .lrcCheck], seedsLrc i = false) ∧
    (State.reset.lsum = 0x00#8 ∧ ∃ t, execAll [.lrcByte 0x01#8, .crcInit, .ckByte 0x03#8] State.reset = .next t) ∧
    (∃ t, execAll [.lrcInit, .lrcByte 0x01#8] extremeState = .next t) ∧
    (∃ t, execAll [.ckInit, .lrcByte 0x01#8] extremeState = .next t) ∧
    ∀ i ∈ [Instr.lrcByte 0x01#8, .ckByte 0x03#8], (fedToLrc i).isSome = true :=
  ⟨by decide, ⟨rfl, _, rfl⟩, ⟨_, rfl⟩, ⟨_, rfl⟩, by decide⟩

/-- The two-byte changes of L1.7: `[10 20]` and `[11 1F]`, `[01 02]` and `[02 01]`. -/
theorem witness_LrcProperties :
    ([0x10#8, 0x20#8][0]? = some 0x10#8 ∧ [0x10#8, 0x20#8][1]? = some 0x20#8 ∧
      (0x11#8 : Byte) + 0x1F#8 = 0x10#8 + 0x20#8) ∧
    [0x01#8, 0x02#8].Perm [0x02#8, 0x01#8] ∧
    (1 < [0x10#8, 0x20#8].length ∧ [0x10#8, 0x20#8][1]? ≠ some 0x21#8) :=
  ⟨by decide, List.Perm.swap _ _ _, by decide⟩

theorem read_bufferOf (bs : List Byte) : Memory.holds (bufferOf bs) 0 bs := by
  have key : ∀ (l : List Byte) (n j : Nat), Memory.read ((l.zipIdx n).map (fun c => (c.2, c.1))) (n + j) = l[j]? := by
    intro l
    induction l with
    | nil => intro n j; rfl
    | cons b l ih =>
      intro n j
      simp only [List.zipIdx_cons, List.map_cons, Memory.read_cons]
      cases j with
      | zero => simp
      | succ j =>
        have h : n + (j + 1) ≠ n := by omega
        rw [if_neg h, List.getElem?_cons_succ, ← ih (n + 1) j]
        congr 1
        omega
  intro j _
  exact key bs 0 j

theorem flen_fullFrame : (frameState fullFrame).flen = 256#9 := by
  rw [frameState, fullFrame, List.length_replicate]

/-- The empty frame, the longest one, and a frame with an unwritten byte. -/
theorem witness_CkFrameComputesBoth :
    (([] : List Byte).length = State.reset.flen.toNat ∧ State.reset.flen.toNat ≤ 256) ∧
    (fullFrame.length = (frameState fullFrame).flen.toNat ∧ (frameState fullFrame).flen.toNat ≤ 256 ∧
      (frameState fullFrame).fbuf.holds 0 fullFrame) ∧
    (0 < { State.reset with flen := 1#9 }.flen.toNat ∧ State.reset.fbuf.read 0 = none) :=
  ⟨by decide, ⟨by rw [flen_fullFrame, fullFrame, List.length_replicate]; rfl, by rw [flen_fullFrame]; decide,
    read_bufferOf fullFrame⟩, by decide⟩

/-- For ControllerMatchesReference and the first part of FrameVerificationRecipes: the frame of program P6. -/
theorem witness_ControllerMatchesReference :
    let f := [0x01#8, 0x03#8, 0x00#8, 0x00#8, 0x00#8, 0x0A#8] ++ [0xC5#8, 0xCD#8]
    (f.length = (frameState f).flen.toNat ∧ (frameState f).flen.toNat ≤ 256 ∧ (frameState f).fbuf.holds 0 f) ∧
    (∃ t, exec .ckFrame (frameState f) = .next t) ∧ ∃ t, execAll (.ckInit :: f.map .ckByte) extremeState = .next t :=
  ⟨⟨by decide, by decide, read_bufferOf _⟩, ⟨_, rfl⟩, ⟨_, rfl⟩⟩

theorem witness_FrameVerificationRecipes :
    let f := [0x01#8, 0x03#8, 0x00#8, 0x00#8, 0x00#8, 0x0A#8] ++ [0xC5#8, 0xCD#8]
    [0x01#8, 0x03#8, 0x00#8, 0x00#8, 0x00#8, 0x0A#8].length + 2 = (frameState f).flen.toNat ∧
    (frameState f).fbuf.holds 0 f ∧ seen State.crc (exec .ckFrame (frameState f)) = some 0x0000#16 :=
  ⟨by decide, read_bufferOf _, by decide⟩

theorem witness_ChecksumFrame :
    (isBitCommand .ckFrame = false ∧ ∃ t, exec .ckFrame State.reset = .next t) ∧
    (isBitCommand .crcCheck = false ∧ partOf .crcCheck = .crc ∧ ∃ t, exec .crcCheck extremeState = .next t) ∧
    (isBitCommand .lrcCheck = false ∧ partOf .lrcCheck = .lrc ∧ ∃ t, exec .lrcCheck extremeState = .next t) :=
  ⟨⟨rfl, _, rfl⟩, ⟨rfl, rfl, _, rfl⟩, ⟨rfl, rfl, _, rfl⟩⟩

theorem witness_EnginesAreIndependent :
    (isBitCommand .packFinish = true ∧ ∃ t, exec .packFinish extremeState = .next t) ∧
    (isBitCommand .ckFrame = false ∧ ∃ t, exec .ckFrame State.reset = .next t) ∧
    partOf (.crcByte 0#8) = .crc ∧ partOf (.lrcByte 0#8) = .lrc :=
  ⟨⟨rfl, _, rfl⟩, ⟨rfl, _, rfl⟩, rfl, rfl⟩

end Sys2Proof.Tests
end

section
/-! SUPPORT. What a command that answers a next state has done, said once for all 14 commands: the errors it can raise
and when (spec/60_exceptions.md R214), and the state it makes where it raises none. -/

namespace Sys2Proof.Machine

/-- The command raises the error `e` from `s` (R105, R108, R109; spec/60_exceptions.md R214). -/
def Raises : Instr → State → ErrorCode → Prop
  | .packBits k _, s, .packOverflow => Config.maxBits < s.packed + k
  | .unpackStart, s, .emptyInput => s.flen = 0#9
  | .unpackStart, s, .inputTooShort => s.flen ≠ 0#9 ∧ ∃ n, fbufRead s 0 = .ok n ∧ s.flen.toNat < n.toNat + 1
  | .unpackBits k, s, .unpackUnderrun => s.urem < k
  | _, _, _ => False

/-- The command raises nothing from `s`, and `u` is the state its rule makes, LAST not yet written (R81). -/
def Makes : Instr → State → State → Prop
  | .packReset, s, u => u = { s with pacc := 0x00#8, pcnt := 0#3, pn := 0#8 }
  | .packBits k d, s, u => s.packed + k ≤ Config.maxBits ∧ pushFlags (flagsOf k d) s = .ok u
  | .packFinish, s, u => ∃ v n, flushPartial s = .ok (v, n) ∧ publishFrame n v = .ok u
  | .unpackStart, s, u => s.flen ≠ 0#9 ∧ ∃ n, fbufRead s 0 = .ok n ∧ n.toNat + 1 ≤ s.flen.toNat ∧
      u = { s with un := n, uptr := 0#11, result := n.setWidth 32 }
  | .unpackBits k, s, u => k ≤ s.urem ∧ ∃ r, gatherBits s s.uptr.toNat k = .ok r ∧
      u = { s with result := r, uptr := s.uptr + BitVec.ofNat 11 k }
  | .crcInit, s, u => u = { s with crc := Config.crcSeed }
  | .crcByte d, s, u => u = s.crcStep d
  | .crcCheck, s, u => u = { s with result := boolWord (s.crc == s.expect) }
  | .lrcInit, s, u => u = { s with lsum := 0x00#8 }
  | .lrcByte d, s, u => u = s.lrcStep d
  | .lrcCheck, s, u => u = { s with result := boolWord ((lrcValue s.lsum).setWidth 16 == s.expect) }
  | .ckInit, s, u => u = s.seedEngines
  | .ckByte d, s, u => u = s.feedBoth d
  | .ckFrame, s, u => feedFrame s.flen.toNat 0 s.seedEngines = .ok u

theorem execPackBits_cases {k : Nat} {d : Byte} {s t : State} (h : execPackBits k d s = .next t) :
    (∃ e, Raises (.packBits k d) s e ∧ t = s.raised e) ∨ ∃ u, Makes (.packBits k d) s u ∧ t = u.completed := by
  unfold execPackBits at h
  split at h
  case isTrue hover => cases h; exact .inl ⟨.packOverflow, hover, rfl⟩
  case isFalse hfits =>
    obtain ⟨u, hu, rfl⟩ := (complete_next_iff _ _).1 h
    exact .inr ⟨u, ⟨Nat.le_of_not_lt hfits, hu⟩, rfl⟩

theorem execPackFinish_cases {s t : State} (h : execPackFinish s = .next t) :
    ∃ u, Makes .packFinish s u ∧ t = u.completed := by
  obtain ⟨u, hu, rfl⟩ := (complete_next_iff _ _).1 h
  obtain ⟨⟨v, n⟩, hv, hu⟩ := bind_ok hu
  exact ⟨u, ⟨v, n, hv, hu⟩, rfl⟩

theorem execUnpackStart_cases {s t : State} (h : execUnpackStart s = .next t) :
    (∃ e, Raises .unpackStart s e ∧ t = s.raised e) ∨ ∃ u, Makes .unpackStart s u ∧ t = u.completed := by
  unfold execUnpackStart at h
  split at h
  case isTrue hempty => cases h; exact .inl ⟨.emptyInput, hempty, rfl⟩
  case isFalse hne =>
    split at h
    case h_1 => cases h
    case h_2 n hn =>
      split at h
      case isTrue hshort => cases h; exact .inl ⟨.inputTooShort, ⟨hne, n, hn, hshort⟩, rfl⟩
      case isFalse hlong => cases h; exact .inr ⟨_, ⟨hne, n, hn, Nat.le_of_not_lt hlong, rfl⟩, rfl⟩

theorem execUnpackBits_cases {k : Nat} {s t : State} (h : execUnpackBits k s = .next t) :
    (∃ e, Raises (.unpackBits k) s e ∧ t = s.raised e) ∨ ∃ u, Makes (.unpackBits k) s u ∧ t = u.completed := by
  unfold execUnpackBits at h
  split at h
  case isTrue hunder => cases h; exact .inl ⟨.unpackUnderrun, hunder, rfl⟩
  case isFalse hfits =>
    obtain ⟨u, hu, rfl⟩ := (complete_next_iff _ _).1 h
    obtain ⟨r, hr, hu⟩ := bind_ok hu
    cases hu
    exact .inr ⟨_, ⟨Nat.le_of_not_lt hfits, r, hr, rfl⟩, rfl⟩

/-- A command that answers a next state has raised one of its errors, or completed with the state of its rule. -/
theorem exec_cases {i : Instr} {s t : State} (h : exec i s = .next t) :
    (∃ e, Raises i s e ∧ t = s.raised e) ∨ ∃ u, Makes i s u ∧ t = u.completed := by
  cases i with
  | packBits k d => exact execPackBits_cases h
  | packFinish => exact .inr (execPackFinish_cases h)
  | unpackStart => exact execUnpackStart_cases h
  | unpackBits k => exact execUnpackBits_cases h
  | ckFrame => exact .inr ((complete_next_iff _ _).1 h)
  | packReset | crcInit | crcByte d | crcCheck | lrcInit | lrcByte d | lrcCheck | ckInit | ckByte d =>
    cases h
    exact .inr ⟨_, rfl, rfl⟩

end Sys2Proof.Machine
end

section
/-! SUPPORT. The packer's part of the invariant (spec/10_state.md R23, R25) and how AccPush and PACK.FINISH keep it. -/

namespace Sys2Proof.Machine

/-- R23 as a bound: the accumulator is a number of PCNT bits. -/
theorem accClean_iff (s : State) : s.AccClean ↔ s.pacc.toNat < 2 ^ s.pcnt.toNat := by
  simp [← BitVec.toNat_inj, BitVec.toNat_ushiftRight, Nat.shiftRight_eq_div_pow, Nat.div_eq_zero_iff]

/-- The bit pushed at place `c` keeps the accumulator a number of `c + 1` bits (R104). -/
theorem or_ofBool_shift_lt {acc : Byte} {c : Nat} (b : Bool) (h : acc.toNat < 2 ^ c) :
    (acc ||| ((BitVec.ofBool b).setWidth 8 <<< c)).toNat < 2 ^ (c + 1) := by
  rw [BitVec.toNat_or]
  refine Nat.or_lt_two_pow (h.trans (Nat.pow_lt_pow_right (by decide) c.lt_succ_self)) ?_
  have hb : ((BitVec.ofBool b).setWidth 8).toNat ≤ 1 := by cases b <;> decide
  calc (((BitVec.ofBool b).setWidth 8) <<< c).toNat
      ≤ ((BitVec.ofBool b).setWidth 8).toNat * 2 ^ c := by
        rw [BitVec.toNat_shiftLeft, Nat.shiftLeft_eq]; exact Nat.mod_le _ _
    _ ≤ 1 * 2 ^ c := Nat.mul_le_mul_right _ hb
    _ < 2 ^ (c + 1) := by rw [Nat.one_mul]; exact Nat.pow_lt_pow_right (by decide) c.lt_succ_self

/-- A frame-buffer write that is served keeps the canonical form. -/
theorem fbufWrite_keeps_wf {i : Nat} {b : Byte} {s t : State} (h : fbufWrite i b s = .ok t) (hs : s.fbuf.wf) :
    t.fbuf.wf := by
  obtain ⟨hi, rfl⟩ := (fbufWrite_ok_iff _ _ _ _).1 h
  exact Memory.wf_write b hs hi

/-- What the packer's commands need of a state and keep: R23 and the canonical form. -/
def State.PackerInv (s : State) : Prop := s.AccClean ∧ s.fbuf.wf

/-- AccPush takes one flag more and keeps the accumulator clean (R104). -/
theorem accPush_keeps {b : Bool} {s t : State} (h : accPush b s = .ok t) (hs : s.PackerInv)
    (hroom : s.packed < Config.maxBits) : t.PackerInv ∧ t.packed = s.packed + 1 := by
  obtain ⟨hclean, hwf⟩ := hs
  have hroom' : 8 * s.pn.toNat + s.pcnt.toNat < 2040 := hroom
  by_cases hfull : s.pcnt = 7#3
  · have hc : s.pcnt.toNat = 7 := by rw [hfull]; rfl
    have hn : s.pn.toNat < 255 := by omega
    have hi : 1 + s.pn.toNat < Config.fbufBytes := by simp only [Config.fbufBytes]; omega
    rw [accPush_full b s hfull hn] at h
    cases h
    refine ⟨⟨rfl, Memory.wf_write _ hwf hi⟩, ?_⟩
    simp only [State.packed, BitVec.toNat_add, BitVec.toNat_ofNat]
    omega
  · rw [accPush_partial b s hfull] at h
    cases h
    have hc : s.pcnt.toNat < 7 := by
      have := s.pcnt.isLt
      have : s.pcnt.toNat ≠ 7 := fun h7 => hfull (BitVec.eq_of_toNat_eq h7)
      omega
    have hsucc : (s.pcnt + 1#3).toNat = s.pcnt.toNat + 1 := by
      rw [BitVec.toNat_add, BitVec.toNat_ofNat]; omega
    refine ⟨⟨(accClean_iff _).2 ?_, hwf⟩, ?_⟩
    · simp only [hsucc]
      exact or_ofBool_shift_lt b ((accClean_iff s).1 hclean)
    · simp only [State.packed, hsucc]; omega

/-- Pushing flags that fit takes them all and keeps the accumulator clean (R105). -/
theorem pushFlags_keeps {bs : List Bool} {s t : State} (h : pushFlags bs s = .ok t) (hs : s.PackerInv)
    (hroom : s.packed + bs.length ≤ Config.maxBits) : t.PackerInv ∧ t.packed = s.packed + bs.length := by
  induction bs generalizing s with
  | nil => cases h; exact ⟨hs, rfl⟩
  | cons b bs ih =>
    obtain ⟨s', hpush, hrest⟩ := bind_ok h
    rw [List.length_cons] at hroom ⊢
    obtain ⟨hs', hcount⟩ := accPush_keeps hpush hs (by omega)
    obtain ⟨ht, htotal⟩ := ih hrest hs' (by omega)
    exact ⟨ht, by omega⟩

/-- The partial group written by PACK.FINISH: the frame buffer alone changes, and the count is a byte (R106). -/
theorem flushPartial_ok {s v : State} {n : Nat} (h : flushPartial s = .ok (v, n)) (hs : s.fbuf.wf) :
    v = { s with fbuf := v.fbuf } ∧ v.fbuf.wf ∧ n ≤ 255 := by
  have hpn := s.pn.isLt
  unfold flushPartial at h
  split at h
  · cases h; exact ⟨rfl, hs, by omega⟩
  · obtain ⟨v', hw, h⟩ := bind_ok h
    cases h
    obtain ⟨hi, rfl⟩ := (fbufWrite_ok_iff _ _ _ _).1 hw
    exact ⟨rfl, fbufWrite_keeps_wf hw hs, by simp only [Config.fbufBytes] at hi; omega⟩

/-- The count byte and the end of the session (R106). -/
theorem publishFrame_ok {n : Nat} {v u : State} (h : publishFrame n v = .ok u) (hv : v.fbuf.wf) :
    u = { v with fbuf := u.fbuf, flen := BitVec.ofNat 9 (n + 1), result := BitVec.ofNat 32 n, pacc := 0x00#8,
                 pcnt := 0#3, pn := 0#8 } ∧ u.fbuf.wf := by
  obtain ⟨v', hw, h⟩ := bind_ok h
  have hwf := fbufWrite_keeps_wf hw hv
  cases h
  obtain ⟨-, rfl⟩ := (fbufWrite_ok_iff _ _ _ _).1 hw
  exact ⟨rfl, hwf⟩

end Sys2Proof.Machine
end

section
/-! SUPPORT. Every step keeps the invariant of spec/10_state.md R22 to R32 (O14, O15). -/

namespace Sys2Proof.Machine

/-- Settles O14: at reset every number the invariant bounds is 0 and no frame-buffer byte is listed. -/
theorem resetMeetsInvariant : Obligations.ResetMeetsInvariant :=
  ⟨rfl, Nat.zero_le _, Nat.zero_le _, Nat.zero_le _, Nat.zero_le _, reset_memory_wf⟩

theorem completed_inv {s : State} (h : s.Inv) : s.completed.Inv := by
  obtain ⟨hacc, hfits, huptr, hflen, -, hwf⟩ := h
  exact ⟨hacc, hfits, huptr, hflen, Nat.zero_le _, hwf⟩

theorem code_le_five (e : ErrorCode) : e.code.toNat ≤ 5 := by cases e <;> decide

theorem raised_inv {s : State} (e : ErrorCode) (h : s.Inv) : (s.raised e).Inv := by
  obtain ⟨hacc, hfits, huptr, hflen, -, hwf⟩ := h
  exact ⟨hacc, hfits, huptr, hflen, code_le_five e, hwf⟩

/-- PACK.BITS's flags, pushed where they fit, keep the invariant (R105). -/
theorem pushFlags_inv {bs : List Bool} {s u : State} (h : pushFlags bs s = .ok u)
    (hroom : s.packed + bs.length ≤ Config.maxBits) (hs : s.Inv) : u.Inv := by
  obtain ⟨hacc, -, huptr, hflen, hlast, hwf⟩ := hs
  obtain ⟨⟨hacc', hwf'⟩, hcount⟩ := pushFlags_keeps h ⟨hacc, hwf⟩ hroom
  have hframe := pushFlags_ok bs s u h
  refine ⟨hacc', hcount.trans_le hroom, ?_, ?_, ?_, hwf'⟩ <;> rw [hframe] <;> assumption

/-- PACK.FINISH ends the session with FLEN at most 256 (R106). -/
theorem packFinish_inv {s u : State} (h : Makes .packFinish s u) (hs : s.Inv) : u.Inv := by
  obtain ⟨v, n, hflush, hpublish⟩ := h
  obtain ⟨-, -, huptr, -, hlast, hwf⟩ := hs
  obtain ⟨hv, hwfv, hn⟩ := flushPartial_ok hflush hwf
  obtain ⟨hu, hwfu⟩ := publishFrame_ok hpublish hwfv
  have hflen : (BitVec.ofNat 9 (n + 1)).toNat ≤ Config.fbufBytes := by
    rw [BitVec.toNat_ofNat, Config.fbufBytes]; omega
  rw [hv] at hu
  rw [hu]
  exact ⟨rfl, Nat.zero_le _, huptr, hflen, hlast, hwfu⟩

/-- UNPACK.BITS moves UPTR no further than the frame's end (R27, R109). -/
theorem unpackBits_inv {k : Nat} {s u : State} (h : Makes (.unpackBits k) s u) (hs : s.Inv) : u.Inv := by
  obtain ⟨hk, r, -, rfl⟩ := h
  obtain ⟨hacc, hfits, huptr, hflen, hlast, hwf⟩ := hs
  refine ⟨hacc, hfits, ?_, hflen, hlast, hwf⟩
  have hun := s.un.isLt
  simp only [State.urem] at hk
  simp only [State.UptrInFrame, BitVec.toNat_add, BitVec.toNat_ofNat] at huptr ⊢
  omega

/-- The state a command makes meets the invariant where the state before does. -/
theorem makes_inv {i : Instr} {s u : State} (h : Makes i s u) (hs : s.Inv) : u.Inv := by
  cases i with
  | packReset =>
    subst h
    obtain ⟨-, -, hrest⟩ := hs
    exact ⟨rfl, Nat.zero_le _, hrest⟩
  | packBits k d =>
    obtain ⟨hroom, hpush⟩ := h
    exact pushFlags_inv hpush (by simpa [flagsOf] using hroom) hs
  | packFinish => exact packFinish_inv h hs
  | unpackStart =>
    obtain ⟨-, n, -, -, rfl⟩ := h
    obtain ⟨hacc, hfits, -, hrest⟩ := hs
    exact ⟨hacc, hfits, Nat.zero_le _, hrest⟩
  | unpackBits k => exact unpackBits_inv h hs
  | ckFrame => rw [feedFrame_ok _ _ _ _ h]; exact hs
  | crcInit | crcByte d | crcCheck | lrcInit | lrcByte d | lrcCheck | ckInit | ckByte d => subst h; exact hs

/-- A command keeps the invariant. -/
theorem exec_inv {i : Instr} {s t : State} (h : exec i s = .next t) (hs : s.Inv) : t.Inv := by
  obtain ⟨e, -, rfl⟩ | ⟨u, hu, rfl⟩ := exec_cases h
  · exact raised_inv e hs
  · exact completed_inv (makes_inv hu hs)

/-- A CMD write keeps the invariant, whatever its word (R81). -/
theorem execute_inv {w : Word} {s t : State} (h : execute w s = .next t) (hs : s.Inv) : t.Inv := by
  cases hd : decode w with
  | ok i => exact exec_inv (execute_ok hd s ▸ h) hs
  | error r =>
    rw [execute_error hd] at h
    cases h
    exact raised_inv .illegalCommand hs

/-- A write through the window keeps the canonical form (R55). -/
theorem windowWrite_inv {i : Nat} {w : Word} {s t : State} (h : windowWrite i w s = .ok t) (hs : s.Inv) : t.Inv := by
  obtain ⟨hacc, hfits, huptr, hflen, hlast, hwf⟩ := hs
  have hwft : t.fbuf.wf := by
    obtain ⟨s1, h1, h⟩ := bind_ok h
    obtain ⟨s2, h2, h⟩ := bind_ok h
    obtain ⟨s3, h3, h4⟩ := bind_ok h
    exact fbufWrite_keeps_wf h4 (fbufWrite_keeps_wf h3 (fbufWrite_keeps_wf h2 (fbufWrite_keeps_wf h1 hwf)))
  have hframe := windowWrite_ok i w s t h
  refine ⟨?_, ?_, ?_, ?_, ?_, hwft⟩ <;> rw [hframe] <;> assumption

/-- A written FLEN is at most 256 (R39). -/
theorem flenOf_toNat (w : Word) : (flenOf w).toNat = min (w.extractLsb' 0 9).toNat 256 := by
  rw [flenOf, BitVec.toNat_ofNat, Config.fbufBytes]
  omega

/-- A host write keeps the invariant, whatever its offset (R65). -/
theorem hostWrite_inv {off : Nat} {w : Word} {s t : State} (h : hostWrite off w s = .next t) (hs : s.Inv) : t.Inv := by
  obtain ⟨-, hwin⟩ | ⟨-, hcmd⟩ | ⟨-, rfl⟩ | ⟨-, rfl⟩ | ⟨-, rfl⟩ | rfl := hostWrite_cases off w s t h
  · exact windowWrite_inv hwin hs
  · exact execute_inv hcmd hs
  · exact hs
  · obtain ⟨hacc, hfits, huptr, -, hrest⟩ := hs
    exact ⟨hacc, hfits, huptr, (flenOf_toNat w).trans_le (Nat.min_le_right _ _), hrest⟩
  · exact hs
  · exact hs

/-- Every event of the host keeps the invariant (R59). -/
theorem perform_inv {e : HostEvent} {s t : State} (h : perform e s = .next t) (hs : s.Inv) : t.Inv := by
  obtain ⟨off, width, v, -, -, -, rfl⟩ | ⟨off, width, w, -, -, hwrite⟩ | ⟨held, -, rfl⟩ := perform_cases e s t h
  · exact hs
  · exact hostWrite_inv hwrite hs
  · exact resetMeetsInvariant

/-- Settles O15: an idle step changes nothing, any other performs an event, and every event keeps the invariant. -/
theorem stepKeepsInvariant : Obligations.StepKeepsInvariant := by
  intro s t hs h
  cases hp : s.pending with
  | nil =>
    rw [step_idle hp] at h
    cases h
    exact hs
  | cons e es =>
    rw [step_event hp] at h
    exact perform_inv h hs

end Sys2Proof.Machine
end

section
/-! SUPPORT. A canonical frame buffer is determined by what it reads (spec/10_state.md R34; O16). -/

namespace Sys2Proof.Machine

/-- Index `i` reads as `b` exactly where the cell `(i, b)` is listed, as the indices rise. -/
theorem Memory.read_eq_some_iff {m : Memory} (h : m.Pairwise (fun x y => x.1 < y.1)) (i : Nat) (b : Byte) :
    m.read i = some b ↔ (i, b) ∈ m := by
  induction m with
  | nil => simp
  | cons c m ih =>
    obtain ⟨j, c⟩ := c
    obtain ⟨hfirst, hrest⟩ := List.pairwise_cons.1 h
    rw [Memory.read_cons, List.mem_cons, Prod.mk.injEq]
    split
    case isTrue hij =>
      subst hij
      have hnot : (i, b) ∉ m := fun hm => lt_irrefl i (hfirst _ hm)
      simp [hnot, eq_comm]
    case isFalse hij => simp [hij, ih hrest]

/-- Settles O16: the two memories list the same cells, and a list with rising indices is determined by its members. -/
theorem canonicalMemoryIsUnique : Obligations.CanonicalMemoryIsUnique := by
  intro m m' ⟨hm, _⟩ ⟨hm', _⟩ hread
  have : Std.Irrefl (fun x y : Host.Cell => x.1 < y.1) := ⟨fun x => lt_irrefl x.1⟩
  have : Std.Antisymm (fun x y : Host.Cell => x.1 < y.1) := ⟨fun _ _ hxy hyx => absurd hxy hyx.asymm⟩
  refine hm.eq_of_mem_iff hm' fun ⟨i, b⟩ => ?_
  rw [← Memory.read_eq_some_iff hm, ← Memory.read_eq_some_iff hm', hread]

end Sys2Proof.Machine
end

section
/-! SUPPORT. Accesses to the registers of the window (spec/20_memory.md R65): what a served read records, what a served
write does, and which writes are ignored (O7, O8, O19, O20 to O23). -/

namespace Sys2Proof.Machine

/-- The access is one the interface admits: reset released, 32 bits, aligned, in the window (R52). -/
theorem accessProblem_eq_none {s : State} {off : Nat} (hr : s.resetHeld = false) (ha : off % 4 = 0)
    (ho : off < Config.windowBytes) : accessProblem off .word s = none :=
  (accessProblem_none_iff off .word s).2 ⟨hr, rfl, ha, ho⟩

/-- An admitted write is a host write (R65). -/
theorem perform_write {s : State} {off : Nat} (hr : s.resetHeld = false) (ha : off % 4 = 0)
    (ho : off < Config.windowBytes) (w : Word) : perform (.write off .word w) s = hostWrite off w s := by
  simp only [perform, accessProblem_eq_none hr ha ho]

/-- A read below the frame buffer's offsets records the register's value (R65). -/
theorem perform_read_register {s : State} {off : Nat} (hr : s.resetHeld = false) (ha : off % 4 = 0) (ho : off < 0x100) :
    perform (.read off .word) s = .next { s with reads := s.reads ++ [registerRead off s] } := by
  have hwin : off < Config.windowBytes := ho.trans (by decide)
  simp only [perform, accessProblem_eq_none hr ha hwin, hostRead, if_neg (Nat.not_le_of_lt ho)]

/-- The offsets of the registers a write has an effect on: CMD, STATUS, FLEN and EXPECT (R65). -/
def WritableOffset (off : Nat) : Prop := off = 0x000 ∨ off = 0x004 ∨ off = 0x00C ∨ off = 0x020

/-- A write to a read-only or reserved offset is ignored (R65). -/
theorem perform_write_ignored {s : State} {off : Nat} (hr : s.resetHeld = false) (ha : off % 4 = 0) (ho : off < 0x100)
    (hoff : ¬ WritableOffset off) (w : Word) : perform (.write off .word w) s = .next s := by
  simp only [WritableOffset, not_or] at hoff
  obtain ⟨h0, h4, hC, h20⟩ := hoff
  rw [perform_write hr ha (ho.trans (by decide))]
  simp only [hostWrite, if_neg (Nat.not_le_of_lt ho), if_neg h0, if_neg h4, if_neg hC, if_neg h20]

/-- A CMD write executes its word (R36). -/
theorem perform_write_cmd {s : State} (hr : s.resetHeld = false) (w : Word) :
    perform (.write 0x000 .word w) s = execute w s := perform_write hr rfl (by decide) w

/-- Settles O7: the step performs the CMD write, which executes the word. -/
theorem stepRunsDecodedCommand : Obligations.StepRunsDecodedCommand := by
  intro s w rest i hr hp hd
  rw [step_event hp, ← execute_ok hd]
  exact perform_write_cmd (s := { s with pending := rest }) hr w

/-- Settles O8: the placed word is the next event, and its CMD write executes it. -/
theorem fetchWordIsRunNext : Obligations.FetchWordIsRunNext := by
  intro s nbits w i h
  have hd : decode (tableWord nbits w) = .ok i := by
    unfold decodeTableWord at h
    split at h
    case h_1 j hj => cases h; exact hj
    case h_2 => cases h
  exact stepRunsDecodedCommand (s.withFetchWord nbits w) _ s.pending i rfl rfl hd

/-- Settles O19: a write of CMD is Execute, and offset 0 is no register that a read shows. -/
theorem cmdRegister : Obligations.CmdRegister := fun _ w hr =>
  ⟨perform_write_cmd hr w, perform_read_register hr rfl (by decide)⟩

/-- Fields side by side, as arithmetic: the upper field counts in multiples of the lower one's range. -/
theorem toNat_append_eq_add {m n : Nat} (x : BitVec m) (y : BitVec n) :
    (x ++ y).toNat = x.toNat * 2 ^ n + y.toNat := by
  rw [BitVec.toNat_append, ← Nat.shiftLeft_add_eq_or_of_lt y.isLt, Nat.shiftLeft_eq]

/-- A zero-extended register on the bus is the register's number. -/
theorem setWidth_eq_ofNat {n : Nat} (x : BitVec n) : x.setWidth 32 = BitVec.ofNat 32 x.toNat := by
  apply BitVec.eq_of_toNat_eq
  rw [BitVec.toNat_setWidth, BitVec.toNat_ofNat]

/-- STATUS: ERR in bits 4:0, LAST in bits 10:8 (R37). -/
theorem statusWord_eq (s : State) : s.statusWord = BitVec.ofNat 32 (s.err.toNat + 256 * s.last.toNat) := by
  rw [State.statusWord, setWidth_eq_ofNat, toNat_append_eq_add, toNat_append_eq_add, BitVec.toNat_ofNat]
  congr 1
  omega

/-- PACKSTAT: PACC in bits 7:0, PCNT in bits 10:8, PN in bits 23:16 (R40). -/
theorem packstatWord_eq (s : State) :
    s.packstatWord = BitVec.ofNat 32 (s.pacc.toNat + 2 ^ 8 * s.pcnt.toNat + 2 ^ 16 * s.pn.toNat) := by
  rw [State.packstatWord, setWidth_eq_ofNat]
  simp only [toNat_append_eq_add, BitVec.toNat_ofNat]
  congr 1
  omega

/-- UNPACKSTAT: UPTR in bits 10:0, UN in bits 23:16 (R41). -/
theorem unpackstatWord_eq (s : State) :
    s.unpackstatWord = BitVec.ofNat 32 (s.uptr.toNat + 2 ^ 16 * s.un.toNat) := by
  rw [State.unpackstatWord, setWidth_eq_ofNat]
  simp only [toNat_append_eq_add, BitVec.toNat_ofNat]
  congr 1
  omega

/-- LRCV is the two's complement of the sum (R29). -/
theorem lrcValue_toNat (sum : Byte) : (lrcValue sum).toNat = (0x100 - sum.toNat) % 0x100 := by
  rw [lrcValue, BitVec.toNat_add, BitVec.toNat_not, BitVec.toNat_ofNat]
  omega

/-- LRC: LSUM in bits 7:0, LRCV in bits 15:8 (R43). -/
theorem lrcWord_eq (s : State) :
    s.lrcWord = BitVec.ofNat 32 (s.lsum.toNat + 2 ^ 8 * ((0x100 - s.lsum.toNat) % 0x100)) := by
  rw [State.lrcWord, setWidth_eq_ofNat, toNat_append_eq_add, lrcValue_toNat]
  congr 1
  omega

/-- A STATUS write keeps the sticky bits that the value does not select (R37). -/
theorem clearErr_getLsbD (w : Word) (s : State) {i : Nat} (hi : i < 5) :
    (s.clearErr w).err.getLsbD i = (s.err.getLsbD i && !w.getLsbD i) := by
  simp [hi]

/-- Settles O20: the read by the places of the fields, the write bit by bit. -/
theorem statusRegister : Obligations.StatusRegister := by
  intro s w hr
  refine ⟨?_, (s.clearErr w).err, perform_write hr rfl (by decide) w, fun i hi => clearErr_getLsbD w s hi⟩
  rw [← statusWord_eq]
  exact perform_read_register hr rfl (by decide)

/-- A register below the frame buffer that a write leaves alone: its read value, and the write ignored (R65). -/
theorem readOnly_answers {s : State} {off : Nat} {v : Word} (hr : s.resetHeld = false) (ha : off % 4 = 0)
    (ho : off < 0x100) (hoff : ¬ WritableOffset off) (hv : registerRead off s = v) (w : Word) :
    perform (.read off .word) s = .next { s with reads := s.reads ++ [v] } ∧
    perform (.write off .word w) s = .next s :=
  ⟨hv ▸ perform_read_register hr ha ho, perform_write_ignored hr ha ho hoff w⟩

/-- Settles O21: each register's word is its fields in their places, and no write reaches it. -/
theorem readOnlyRegisters : Obligations.ReadOnlyRegisters := by
  intro s w hr
  refine ⟨?_, ?_, ?_, ?_, ?_⟩
  · exact readOnly_answers hr rfl (by decide) (by simp [WritableOffset]) rfl w
  · exact readOnly_answers (off := 0x010) hr rfl (by decide) (by simp [WritableOffset]) (packstatWord_eq s) w
  · exact readOnly_answers (off := 0x014) hr rfl (by decide) (by simp [WritableOffset]) (unpackstatWord_eq s) w
  · exact readOnly_answers (off := 0x018) hr rfl (by decide) (by simp [WritableOffset]) (setWidth_eq_ofNat s.crc) w
  · exact readOnly_answers (off := 0x01C) hr rfl (by decide) (by simp [WritableOffset]) (lrcWord_eq s) w

/-- Settles O22: the read of each register zero-extends it, and a write takes the low bits of the value, FLEN's at most
256. -/
theorem flenAndExpectRegisters : Obligations.FlenAndExpectRegisters := by
  refine ⟨rfl, rfl, fun s w hr => ⟨⟨?_, flenOf w, perform_write hr rfl (by decide) w, ?_⟩, ?_,
    expectOf w, perform_write hr rfl (by decide) w, ?_⟩⟩
  · rw [← setWidth_eq_ofNat]
    exact perform_read_register hr rfl (by decide)
  · rw [flenOf_toNat, BitVec.extractLsb'_toNat, Nat.shiftRight_zero]
  · rw [← setWidth_eq_ofNat]
    exact perform_read_register hr rfl (by decide)
  · rw [expectOf, BitVec.extractLsb'_toNat, Nat.shiftRight_zero]

/-- A reserved offset reads as zero (R45). -/
theorem registerRead_reserved {off : Nat} (h : 0x024 ≤ off) (s : State) : registerRead off s = 0x00000000#32 := by
  have hne : ∀ r, r < 0x024 → off ≠ r := fun r hr => (hr.trans_le h).ne'
  simp [registerRead, hne]

/-- Settles O23: a reserved offset lies above every register's, so it reads as zero and no write reaches it. -/
theorem reservedOffsets : Obligations.ReservedOffsets := by
  intro s off w hr hlow hhigh ha
  have hoff : ¬ WritableOffset off := by simp only [WritableOffset]; omega
  exact readOnly_answers hr ha (by omega) hoff (registerRead_reserved hlow s) w

end Sys2Proof.Machine
end

section
/-! SUPPORT. STATUS as an input of commands: what each shared operation does from a state with other STATUS bits
(spec/10_state.md R46, spec/60_exceptions.md R222; O28). -/

namespace Sys2Proof.Machine

/-- The state with other STATUS bits. -/
def State.withStatus (e : BitVec 5) (l : BitVec 3) (s : State) : State := { s with err := e, last := l }

/-- The next state's ERR when the command started from the sticky bits `e`: its own error bit added to them. -/
def State.reportOver (e : BitVec 5) (t : State) : State :=
  { t with err := if t.last = 0#3 then e else e ||| (1#5 <<< (t.last.toNat - 1)) }

/-- Completing adds no sticky bit to those that were there (R212). -/
theorem complete_withStatus (r : Except Fault State) (e : BitVec 5) (l : BitVec 3) :
    complete (r.map (State.withStatus e l)) = mapNext (State.reportOver e) (complete r) := by
  cases r <;> rfl

/-- An error adds its bit to the sticky bits that were there (R213). -/
theorem raiseError_withStatus (err : ErrorCode) (s : State) (e : BitVec 5) (l : BitVec 3) :
    raiseError err (s.withStatus e l) = mapNext (State.reportOver e) (raiseError err s) := by
  cases err <;> rfl

theorem fbufWrite_withStatus (i : Nat) (b : Byte) (s : State) (e : BitVec 5) (l : BitVec 3) :
    fbufWrite i b (s.withStatus e l) = (fbufWrite i b s).map (State.withStatus e l) := by
  unfold fbufWrite
  split <;> rfl

theorem pushFlags_withStatus (bs : List Bool) (s : State) (e : BitVec 5) (l : BitVec 3) :
    pushFlags bs (s.withStatus e l) = (pushFlags bs s).map (State.withStatus e l) := by
  refine (pushFlags_withPackerOf bs (s.withStatus e l) s).trans ?_
  cases h : pushFlags bs s with
  | error f => rfl
  | ok t => rw [pushFlags_ok bs s t h]; rfl

theorem feedFrame_withStatus (n i : Nat) (s : State) (e : BitVec 5) (l : BitVec 3) :
    feedFrame n i (s.withStatus e l) = (feedFrame n i s).map (State.withStatus e l) := by
  refine (feedFrame_withEnginesOf n i (s.withStatus e l) s rfl).trans ?_
  cases h : feedFrame n i s with
  | error f => rfl
  | ok t => rw [feedFrame_ok n i s t h]; rfl

theorem publishFrame_withStatus (n : Nat) (s : State) (e : BitVec 5) (l : BitVec 3) :
    publishFrame n (s.withStatus e l) = (publishFrame n s).map (State.withStatus e l) := by
  simp only [publishFrame, fbufWrite_withStatus]
  cases fbufWrite 0 (BitVec.ofNat 8 n) s <;> rfl

theorem flushPartial_withStatus (s : State) (e : BitVec 5) (l : BitVec 3) :
    flushPartial (s.withStatus e l) = (flushPartial s).map (Prod.map (State.withStatus e l) id) := by
  have hpcnt : (s.withStatus e l).pcnt = s.pcnt := rfl
  have hpn : (s.withStatus e l).pn = s.pn := rfl
  have hpacc : (s.withStatus e l).pacc = s.pacc := rfl
  simp only [flushPartial, hpcnt, hpn, hpacc, fbufWrite_withStatus]
  split
  · rfl
  · cases fbufWrite (1 + s.pn.toNat) s.pacc s <;> rfl

theorem execPackBits_withStatus (k : Nat) (d : Byte) (s : State) (e : BitVec 5) (l : BitVec 3) :
    execPackBits k d (s.withStatus e l) = mapNext (State.reportOver e) (execPackBits k d s) := by
  have hcount : (s.withStatus e l).packed = s.packed := rfl
  simp only [execPackBits, hcount, pushFlags_withStatus, complete_withStatus, raiseError_withStatus]
  split <;> rfl

theorem execPackFinish_withStatus (s : State) (e : BitVec 5) (l : BitVec 3) :
    execPackFinish (s.withStatus e l) = mapNext (State.reportOver e) (execPackFinish s) := by
  simp only [execPackFinish, ← complete_withStatus _ e l, flushPartial_withStatus]
  cases flushPartial s with
  | error f => rfl
  | ok vn => exact congrArg complete (publishFrame_withStatus vn.2 vn.1 e l)

theorem execUnpackStart_withStatus (s : State) (e : BitVec 5) (l : BitVec 3) :
    execUnpackStart (s.withStatus e l) = mapNext (State.reportOver e) (execUnpackStart s) := by
  have hflen : (s.withStatus e l).flen = s.flen := rfl
  have hread : fbufRead (s.withStatus e l) 0 = fbufRead s 0 := rfl
  simp only [execUnpackStart, hflen, hread, raiseError_withStatus]
  split
  · rfl
  · split
    · rfl
    · split <;> rfl

theorem execUnpackBits_withStatus (k : Nat) (s : State) (e : BitVec 5) (l : BitVec 3) :
    execUnpackBits k (s.withStatus e l) = mapNext (State.reportOver e) (execUnpackBits k s) := by
  have hurem : (s.withStatus e l).urem = s.urem := rfl
  have huptr : (s.withStatus e l).uptr = s.uptr := rfl
  have hbits : gatherBits (s.withStatus e l) s.uptr.toNat k = gatherBits s s.uptr.toNat k :=
    gatherBits_congr (s := s.withStatus e l) (t := s) rfl _ _
  simp only [execUnpackBits, hurem, huptr, hbits, raiseError_withStatus]
  split
  · rfl
  · cases gatherBits s s.uptr.toNat k <;> rfl

/-- Settles O28: the commands built from shared operations by those operations' lemmas; the other commands complete, in
every state, with one update of registers outside STATUS. -/
theorem commandsIgnoreStatus : Obligations.CommandsIgnoreStatus := by
  intro i s e l
  cases i with
  | packBits k d => exact execPackBits_withStatus k d s e l
  | packFinish => exact execPackFinish_withStatus s e l
  | unpackStart => exact execUnpackStart_withStatus s e l
  | unpackBits k => exact execUnpackBits_withStatus k s e l
  | ckFrame =>
    exact (congrArg complete (feedFrame_withStatus s.flen.toNat 0 s.seedEngines e l)).trans (complete_withStatus _ e l)
  | packReset | crcInit | crcByte d | crcCheck | lrcInit | lrcByte d | lrcCheck | ckInit | ckByte d => rfl

end Sys2Proof.Machine
end

section
/-! SUPPORT. The writers of RESULT (spec/10_state.md R31; O30). -/

namespace Sys2Proof.Machine

/-- The commands that return a value in RESULT (R31). -/
def Returns (i : Instr) : Prop :=
  i = .packFinish ∨ i = .unpackStart ∨ (∃ k, i = .unpackBits k) ∨ i = .crcCheck ∨ i = .lrcCheck

/-- A command that returns nothing makes a state with the same RESULT. -/
theorem makes_result {i : Instr} {s u : State} (h : Makes i s u) (hi : ¬ Returns i) : u.result = s.result := by
  cases i with
  | packBits k d => rw [pushFlags_ok _ _ _ h.2]
  | ckFrame => rw [feedFrame_ok _ _ _ _ h]; rfl
  | packFinish | unpackStart | unpackBits k | crcCheck | lrcCheck => simp [Returns] at hi
  | packReset | crcInit | crcByte d | lrcInit | lrcByte d | ckInit | ckByte d => subst h; rfl

/-- Settles O30: an error keeps RESULT, and so does the completion of a command that returns nothing. -/
theorem resultWriters : Obligations.ResultWriters := by
  intro i s t h
  obtain ⟨e, -, rfl⟩ | ⟨u, hu, rfl⟩ := exec_cases h
  · exact .inl rfl
  · by_cases hi : Returns i
    · exact .inr ⟨rfl, hi⟩
    · exact .inl ((State.completed_result u).trans (makes_result hu hi))

end Sys2Proof.Machine
end

section
/-! SUPPORT. A command is never refused, and what it can fault on (spec/20_memory.md R56; O29). -/

namespace Sys2Proof.Machine

/-- No command is refused: each raises an error, completes or faults (R81). -/
theorem exec_ne_refused (i : Instr) (s : State) (r : Refusal) : exec i s ≠ .refused r := by
  cases i with
  | packBits k d =>
    simp only [exec, execPackBits]
    split
    · simp
    · exact complete_ne_refused _ r
  | unpackStart =>
    simp only [exec, execUnpackStart]
    split
    · simp
    · split
      · simp
      · split
        · simp
        · exact complete_ne_refused _ r
  | unpackBits k =>
    simp only [exec, execUnpackBits]
    split
    · simp
    · exact complete_ne_refused _ r
  | packFinish | ckFrame => exact complete_ne_refused _ r
  | packReset | crcInit | crcByte d | crcCheck | lrcInit | lrcByte d | lrcCheck | ckInit | ckByte d => exact nofun

/-- The fault is the use of a frame-buffer byte that is unwritten in `s` (R34, R56). -/
def UsesUnwritten (s : State) (f : Fault) : Prop := ∃ a, a < 256 ∧ f = .unwrittenByte a ∧ s.fbuf.read a = none

/-- A read inside the frame buffer faults on an unwritten byte only. -/
theorem usesUnwritten_of_fbufRead {s : State} {i : Nat} {f : Fault} (h : fbufRead s i = .error f) (hi : i < 256) :
    UsesUnwritten s f := by
  obtain ⟨-, hnone, rfl⟩ | ⟨hout, -⟩ := (fbufRead_error_iff s i f).1 h
  · exact ⟨i, hi, rfl, hnone⟩
  · exact absurd hi (Nat.not_lt_of_le hout)

/-- AccPush of a flag that fits does not fault: the byte it completes is inside the frame buffer (R104). -/
theorem accPush_served (b : Bool) {s : State} (hroom : s.packed < Config.maxBits) : ∃ t, accPush b s = .ok t := by
  by_cases hfull : s.pcnt = 7#3
  · have hroom' : 8 * s.pn.toNat + s.pcnt.toNat < 2040 := hroom
    exact ⟨_, accPush_full b s hfull (by omega)⟩
  · exact ⟨_, accPush_partial b s hfull⟩

/-- Pushing flags that fit does not fault (R105). -/
theorem pushFlags_served {bs : List Bool} {s : State} (hs : s.PackerInv)
    (hroom : s.packed + bs.length ≤ Config.maxBits) : ∃ t, pushFlags bs s = .ok t := by
  induction bs generalizing s with
  | nil => exact ⟨s, rfl⟩
  | cons b bs ih =>
    rw [List.length_cons] at hroom
    obtain ⟨s', hpush⟩ := accPush_served b (s := s) (by omega)
    obtain ⟨hs', hcount⟩ := accPush_keeps hpush hs (by omega)
    simpa only [pushFlags, hpush, ok_bind] using ih hs' (by omega)

/-- The partial group of a session within the capacity is written inside the frame buffer (R25, R106). -/
theorem flushPartial_ne_error {s : State} (hfits : s.PackFits) (f : Fault) : flushPartial s ≠ .error f := by
  have hcap : 8 * s.pn.toNat + s.pcnt.toNat ≤ 2040 := hfits
  unfold flushPartial
  split
  case isTrue => simp
  case isFalse hpart =>
    have hpos : 0 < s.pcnt.toNat := Nat.pos_of_ne_zero fun h0 => hpart (BitVec.eq_of_toNat_eq h0)
    intro h
    obtain h | ⟨v, -, h⟩ := bind_error h
    · obtain ⟨hout, -⟩ := (fbufWrite_error_iff _ _ _ _).1 h
      simp only [Config.fbufBytes] at hout
      omega
    · cases h

/-- The count byte is written inside the frame buffer (R106). -/
theorem publishFrame_ne_error (n : Nat) (s : State) (f : Fault) : publishFrame n s ≠ .error f := by
  intro h
  obtain h | ⟨v, -, h⟩ := bind_error h
  · exact absurd ((fbufWrite_error_iff _ _ _ _).1 h).1 (by decide)
  · cases h

/-- PACK.BITS never faults: the flags it pushes fit (R105). -/
theorem execPackBits_ne_fault {k : Nat} {d : Byte} {s : State} (hs : s.PackerInv) (f : Fault) :
    execPackBits k d s ≠ .fault f := by
  unfold execPackBits
  split
  case isTrue => simp
  case isFalse hfits =>
    obtain ⟨t, ht⟩ := pushFlags_served (bs := flagsOf k d) hs (by simpa [flagsOf] using hfits)
    simp [ht]

/-- PACK.FINISH never faults on a session within the capacity (R106). -/
theorem execPackFinish_ne_fault {s : State} (hfits : s.PackFits) (f : Fault) : execPackFinish s ≠ .fault f := by
  intro h
  obtain h | ⟨⟨v, n⟩, -, h⟩ := bind_error ((complete_fault_iff _ _).1 h)
  · exact flushPartial_ne_error hfits f h
  · exact publishFrame_ne_error n v f h

/-- UNPACK.START uses FBUF[0] alone (R108). -/
theorem execUnpackStart_fault {s : State} {f : Fault} (h : execUnpackStart s = .fault f) : UsesUnwritten s f := by
  unfold execUnpackStart at h
  split at h
  case isTrue => cases h
  case isFalse =>
    split at h
    case h_1 hread => cases h; exact usesUnwritten_of_fbufRead hread (by decide)
    case h_2 => split at h <;> cases h

/-- The bits UNPACK.BITS returns lie below bit 8 x 255 of the frame, so in FBUF[1..255] (R109). -/
theorem execUnpackBits_fault {k : Nat} {s : State} {f : Fault} (h : execUnpackBits k s = .fault f) :
    UsesUnwritten s f := by
  unfold execUnpackBits at h
  split at h
  case isTrue => cases h
  case isFalse hfits =>
    obtain h | ⟨r, -, h⟩ := bind_error ((complete_fault_iff _ _).1 h)
    · obtain ⟨j, hj, hread⟩ := gatherBits_error _ _ _ _ h
      have hun := s.un.isLt
      simp only [State.urem] at hfits
      exact usesUnwritten_of_fbufRead hread (by simp only [frameIndex, Config.group]; omega)
    · cases h

/-- CK.FRAME uses the bytes below FLEN (R193). -/
theorem execCkFrame_fault {s : State} {f : Fault} (hflen : s.FlenLegal) (h : execCkFrame s = .fault f) :
    UsesUnwritten s f := by
  obtain ⟨j, -, hj, hread⟩ := feedFrame_error _ _ _ _ ((complete_fault_iff _ _).1 h)
  rw [Nat.zero_add] at hj
  exact usesUnwritten_of_fbufRead (s := s.seedEngines) hread (hj.trans_le hflen)

/-- Settles O29: the packer's writes stay inside the frame buffer, as its count fits; UNPACK.START, UNPACK.BITS and
CK.FRAME read inside it; the other commands use no byte. -/
theorem commandsStopOnlyOnUnwrittenBytes : Obligations.CommandsStopOnlyOnUnwrittenBytes := by
  refine ⟨exec_ne_refused, fun i s f hs _ h => ?_⟩
  obtain ⟨hacc, hfits, -, hflen, -, hwf⟩ := hs
  cases i with
  | packBits k d => exact absurd h (execPackBits_ne_fault ⟨hacc, hwf⟩ f)
  | packFinish => exact absurd h (execPackFinish_ne_fault hfits f)
  | unpackStart => exact execUnpackStart_fault h
  | unpackBits k => exact execUnpackBits_fault h
  | ckFrame => exact execCkFrame_fault hflen h
  | packReset | crcInit | crcByte d | crcCheck | lrcInit | lrcByte d | lrcCheck | ckInit | ckByte d => cases h

end Sys2Proof.Machine
end

section
/-! SUPPORT. Which accesses are refused, and what a read leaves (spec/20_memory.md R52, R54; O17, O18). -/

namespace Sys2Proof.Machine

/-- A host write that is admitted is not refused, whatever its offset (R65). -/
theorem hostWrite_ne_refused (off : Nat) (w : Word) (s : State) (r : Refusal) : hostWrite off w s ≠ .refused r := by
  unfold hostWrite
  split
  · split <;> simp
  · split
    · cases hd : decode w with
      | ok i => rw [execute_ok hd]; exact exec_ne_refused i s r
      | error x => simp [execute_error hd]
    · split
      · simp
      · split
        · simp
        · split <;> simp

/-- A read is refused where it is not admitted, and nowhere else (R52). -/
theorem perform_read_refused_iff (off : Nat) (width : AccessWidth) (s : State) (r : Refusal) :
    perform (.read off width) s = .refused r ↔ accessProblem off width s = some r := by
  simp only [perform]
  split
  case h_1 x hx => simp [hx]
  case h_2 hx => split <;> simp [hx]

/-- A write is refused where it is not admitted, and nowhere else (R52). -/
theorem perform_write_refused_iff (off : Nat) (width : AccessWidth) (w : Word) (s : State) (r : Refusal) :
    perform (.write off width w) s = .refused r ↔ accessProblem off width s = some r := by
  simp only [perform]
  split
  case h_1 x hx => simp [hx]
  case h_2 hx => simp [hx, hostWrite_ne_refused]

/-- With reset released, an access has a problem exactly when it is not an aligned 32-bit access in 0x000 to 0x1FC. -/
theorem exists_accessProblem_iff {s : State} (hr : s.resetHeld = false) (off : Nat) (width : AccessWidth) :
    (∃ r, accessProblem off width s = some r) ↔ ¬ (width = .word ∧ off % 4 = 0 ∧ off ≤ 0x1FC) := by
  have hlast : off % 4 = 0 → (off < Config.windowBytes ↔ off ≤ 0x1FC) := by
    simp only [Config.windowBytes]; omega
  rw [← Option.ne_none_iff_exists', Ne, accessProblem_none_iff]
  simp only [hr, true_and, and_congr_right_iff.2 hlast]

/-- Settles O17: an access is refused exactly when it has a problem, as no command and no register refuses one. -/
theorem onlyAdmittedAccessesAreServed : Obligations.OnlyAdmittedAccessesAreServed := by
  intro s off width w hr
  simp only [perform_read_refused_iff, perform_write_refused_iff, exists_accessProblem_iff hr, iff_self, and_self]

/-- An admitted read that is served records its value (R65). -/
theorem perform_read_served {off : Nat} {width : AccessWidth} {s : State} {v : Word}
    (ha : accessProblem off width s = none) (hv : hostRead off s = .ok v) :
    perform (.read off width) s = .next { s with reads := s.reads ++ [v] } := by
  simp only [perform, ha, hv]

/-- Settles O18: a served read only appends its value to the record, which neither the admission of an access nor the
value of a read depends on. -/
theorem readsHaveNoSideEffect : Obligations.ReadsHaveNoSideEffect := by
  intro s t off width h
  obtain ⟨_, _, v, he, ha, hv, rfl⟩ | ⟨_, _, _, he, -⟩ | ⟨_, he, -⟩ := perform_cases _ s t h
  · cases he
    exact ⟨v, rfl, perform_read_served (s := { s with reads := s.reads ++ [v] }) ha hv⟩
  · cases he
  · cases he

end Sys2Proof.Machine
end

section
/-! SUPPORT. The FBUF window: four bytes of the frame buffer as a little-endian word (spec/20_memory.md R53,
R55; O24). -/

namespace Sys2Proof.Machine

/-- Byte `j` of a word as a number (R53). -/
theorem byteOf_toNat (j : Nat) (w : Word) : (byteOf j w).toNat = w.toNat / 2 ^ (8 * j) % 256 := by
  rw [byteOf, BitVec.extractLsb'_toNat, Nat.shiftRight_eq_div_pow]

/-- The word of four bytes is the bytes side by side, the first lowest (R53). -/
theorem wordOfBytes_eq_append (b0 b1 b2 b3 : Byte) : wordOfBytes b0 b1 b2 b3 = b3 ++ b2 ++ b1 ++ b0 := by
  refine BitVec.eq_of_getLsbD_eq fun i hi => ?_
  simp only [wordOfBytes, BitVec.getLsbD_append]
  interval_cases i <;> simp

/-- The word of four bytes as a number (R53). -/
theorem wordOfBytes_eq_ofNat (b0 b1 b2 b3 : Byte) : wordOfBytes b0 b1 b2 b3 =
    BitVec.ofNat 32 (b0.toNat + 2 ^ 8 * b1.toNat + 2 ^ 16 * b2.toNat + 2 ^ 24 * b3.toNat) := by
  rw [wordOfBytes_eq_append, ← BitVec.setWidth_eq (b3 ++ b2 ++ b1 ++ b0), setWidth_eq_ofNat]
  simp only [toNat_append_eq_add]
  congr 1
  omega

/-- A window write stores byte `j` of the value at the `j`-th byte of the word (R55). -/
theorem windowWrite_read_inside {i : Nat} {w : Word} {s t : State} (h : windowWrite i w s = .ok t) {j : Nat}
    (hj : j < 4) : t.fbuf.read (i + j) = some (byteOf j w) := by
  rw [windowWrite_ok i w s t h]
  interval_cases j <;> simp [Memory.read_write]

/-- A window write leaves the bytes outside its word alone (R55). -/
theorem windowWrite_read_outside {i : Nat} {w : Word} {s t : State} (h : windowWrite i w s = .ok t) {a : Nat}
    (ha : a < i ∨ i + 4 ≤ a) : t.fbuf.read a = s.fbuf.read a := by
  rw [windowWrite_ok i w s t h]
  simp only
  iterate 4 rw [Memory.read_write_of_ne _ _ (by omega)]

/-- A window read that is served reads written bytes only (R55). -/
theorem windowRead_ok {i : Nat} {s : State} {v : Word} (h : windowRead i s = .ok v) {j : Nat} (hj : j < 4) :
    ∃ b, fbufRead s (i + j) = .ok b := by
  obtain ⟨b0, h0, h⟩ := bind_ok h
  obtain ⟨b1, h1, h⟩ := bind_ok h
  obtain ⟨b2, h2, h⟩ := bind_ok h
  obtain ⟨b3, h3, -⟩ := bind_ok h
  interval_cases j
  · exact ⟨b0, h0⟩
  · exact ⟨b1, h1⟩
  · exact ⟨b2, h2⟩
  · exact ⟨b3, h3⟩

/-- A window read faults only where one of its four bytes does (R55). -/
theorem windowRead_error {i : Nat} {s : State} {f : Fault} (h : windowRead i s = .error f) :
    ∃ j, j < 4 ∧ fbufRead s (i + j) = .error f := by
  obtain h | ⟨_, -, h⟩ := bind_error h
  · exact ⟨0, by decide, h⟩
  obtain h | ⟨_, -, h⟩ := bind_error h
  · exact ⟨1, by decide, h⟩
  obtain h | ⟨_, -, h⟩ := bind_error h
  · exact ⟨2, by decide, h⟩
  obtain h | ⟨_, -, h⟩ := bind_error h
  · exact ⟨3, by decide, h⟩
  · cases h

/-- A window read with an unwritten byte in its word faults on one of those (R34, R55). -/
theorem windowRead_unwritten {i : Nat} {s : State} (hi : i + 3 < Config.fbufBytes)
    (h : ∃ j, j < 4 ∧ s.fbuf.read (i + j) = none) :
    ∃ j, j < 4 ∧ s.fbuf.read (i + j) = none ∧ windowRead i s = .error (.unwrittenByte (i + j)) := by
  cases hw : windowRead i s with
  | ok v =>
    obtain ⟨j, hj, hnone⟩ := h
    obtain ⟨b, hb⟩ := windowRead_ok hw hj
    simp [((fbufRead_ok_iff _ _ _).1 hb).2] at hnone
  | error f =>
    obtain ⟨j, hj, hread⟩ := windowRead_error hw
    obtain ⟨-, hnone, rfl⟩ | ⟨hout, -⟩ := (fbufRead_error_iff _ _ _).1 hread
    · exact ⟨j, hj, hnone, rfl⟩
    · omega

/-- A window read of four written bytes answers their word (R55). -/
theorem windowRead_written {i : Nat} {s : State} {b0 b1 b2 b3 : Byte} (hi : i + 3 < Config.fbufBytes)
    (h0 : s.fbuf.read i = some b0) (h1 : s.fbuf.read (i + 1) = some b1) (h2 : s.fbuf.read (i + 2) = some b2)
    (h3 : s.fbuf.read (i + 3) = some b3) : windowRead i s = .ok (wordOfBytes b0 b1 b2 b3) := by
  simp only [windowRead, (fbufRead_ok_iff _ _ _).2 ⟨hi, h3⟩,
    (fbufRead_ok_iff _ i _).2 ⟨by omega, h0⟩, (fbufRead_ok_iff _ (i + 1) _).2 ⟨by omega, h1⟩,
    (fbufRead_ok_iff _ (i + 2) _).2 ⟨by omega, h2⟩, ok_bind]

/-- The offset of a window word addresses its first byte (R55, R65). -/
theorem hostRead_window (i : Nat) (s : State) : hostRead (0x100 + i) s = windowRead i s := by
  simp only [hostRead, if_pos (Nat.le_add_right 0x100 i), Nat.add_sub_cancel_left]

/-- A write through the window that is served answers the state of its window write (R55, R65). -/
theorem hostWrite_window {i : Nat} {w : Word} {s t : State} (h : windowWrite i w s = .ok t) :
    hostWrite (0x100 + i) w s = .next t := by
  simp only [hostWrite, if_pos (Nat.le_add_right 0x100 i), Nat.add_sub_cancel_left, h]

/-- Settles O24: the write by the four frame-buffer writes it makes, the reads by the four bytes they use. -/
theorem fbufWindow : Obligations.FbufWindow := by
  intro s i hr hi
  have hin : 4 * i + 3 < Config.fbufBytes := by simp only [Config.fbufBytes]; omega
  have hwin : 0x100 + 4 * i < Config.windowBytes := by simp only [Config.windowBytes]; omega
  have ha : accessProblem (0x100 + 4 * i) .word s = none := accessProblem_eq_none hr (by omega) hwin
  refine ⟨fun w => ?_, fun b0 b1 b2 b3 h0 h1 h2 h3 => ?_, fun hnone => ?_⟩
  · have hw := windowWrite_eq (4 * i) w s hin
    refine ⟨_, (perform_write hr (by omega) hwin w).trans (hostWrite_window hw), rfl, ?_, ?_⟩
    · exact fun j hj => ⟨_, windowWrite_read_inside hw hj, byteOf_toNat j w⟩
    · exact fun a hout => windowWrite_read_outside hw hout
  · rw [← wordOfBytes_eq_ofNat]
    exact perform_read_served ha ((hostRead_window _ s).trans (windowRead_written hin h0 h1 h2 h3))
  · obtain ⟨j, hj, hread, hfault⟩ := windowRead_unwritten hin hnone
    exact ⟨j, hj, hread, by simp only [perform, ha, hostRead_window, hfault]⟩

end Sys2Proof.Machine
end

section
/-! SUPPORT. The host's list of coming events is no input of an event: none reads it or changes it
(spec/20_memory.md R59; O9). -/

namespace Sys2Proof.Machine

/-- The state with another list of coming events. -/
def State.withPending (p : List HostEvent) (s : State) : State := { s with pending := p }

/-- Changing the state by `f` before the operation is changing its answer by `f`. -/
def Commutes (f : State → State) (op : State → Except Fault State) : Prop := ∀ s, op (f s) = (op s).map f

/-- Two operations in sequence commute with what both commute with. -/
theorem Commutes.bind {f : State → State} {op op' : State → Except Fault State} (h : Commutes f op)
    (h' : Commutes f op') : Commutes f (fun s => op s >>= op') := by
  intro s
  simp only [h s]
  cases op s with
  | error e => rfl
  | ok t => exact h' t

/-- A frame-buffer write is of the core alone (R56). -/
theorem fbufWrite_commutes_withPending (p : List HostEvent) (i : Nat) (b : Byte) :
    Commutes (State.withPending p) (fbufWrite i b) := by
  intro s
  unfold fbufWrite
  split <;> rfl

/-- A window write is four frame-buffer writes (R55). -/
theorem windowWrite_commutes_withPending (p : List HostEvent) (i : Nat) (w : Word) :
    Commutes (State.withPending p) (windowWrite i w) :=
  have h := fbufWrite_commutes_withPending p
  (h _ _).bind ((h _ _).bind ((h _ _).bind (h _ _)))

/-- Pushing flags is of the packer and the frame buffer alone (R105). -/
theorem pushFlags_commutes_withPending (p : List HostEvent) (bs : List Bool) :
    Commutes (State.withPending p) (pushFlags bs) := by
  intro s
  refine (pushFlags_withPackerOf bs (s.withPending p) s).trans ?_
  cases h : pushFlags bs s with
  | error f => rfl
  | ok t => rw [pushFlags_ok bs s t h]; rfl

/-- Feeding a frame is of the engines and the frame buffer alone (R193). -/
theorem feedFrame_commutes_withPending (p : List HostEvent) (n i : Nat) :
    Commutes (State.withPending p) (feedFrame n i) := by
  intro s
  refine (feedFrame_withEnginesOf n i (s.withPending p) s rfl).trans ?_
  cases h : feedFrame n i s with
  | error f => rfl
  | ok t => rw [feedFrame_ok n i s t h]; rfl

/-- Completing changes LAST alone (R212). -/
theorem complete_withPending (p : List HostEvent) (r : Except Fault State) :
    complete (r.map (State.withPending p)) = mapNext (State.withPending p) (complete r) := by
  cases r <;> rfl

theorem execPackBits_withPending (p : List HostEvent) (k : Nat) (d : Byte) (s : State) :
    execPackBits k d (s.withPending p) = mapNext (State.withPending p) (execPackBits k d s) := by
  have hcount : (s.withPending p).packed = s.packed := rfl
  simp only [execPackBits, hcount, pushFlags_commutes_withPending p _ s, complete_withPending]
  split <;> rfl

theorem flushPartial_withPending (p : List HostEvent) (s : State) :
    flushPartial (s.withPending p) = (flushPartial s).map (Prod.map (State.withPending p) id) := by
  have hpcnt : (s.withPending p).pcnt = s.pcnt := rfl
  have hpn : (s.withPending p).pn = s.pn := rfl
  have hpacc : (s.withPending p).pacc = s.pacc := rfl
  simp only [flushPartial, hpcnt, hpn, hpacc, fbufWrite_commutes_withPending p _ _ s]
  split
  · rfl
  · cases fbufWrite (1 + s.pn.toNat) s.pacc s <;> rfl

theorem publishFrame_commutes_withPending (p : List HostEvent) (n : Nat) :
    Commutes (State.withPending p) (publishFrame n) :=
  (fbufWrite_commutes_withPending p 0 (BitVec.ofNat 8 n)).bind fun _ => rfl

theorem execPackFinish_withPending (p : List HostEvent) (s : State) :
    execPackFinish (s.withPending p) = mapNext (State.withPending p) (execPackFinish s) := by
  simp only [execPackFinish, ← complete_withPending p, flushPartial_withPending]
  cases flushPartial s with
  | error f => rfl
  | ok vn => exact congrArg complete (publishFrame_commutes_withPending p vn.2 vn.1)

theorem execUnpackStart_withPending (p : List HostEvent) (s : State) :
    execUnpackStart (s.withPending p) = mapNext (State.withPending p) (execUnpackStart s) := by
  have hflen : (s.withPending p).flen = s.flen := rfl
  have hread : fbufRead (s.withPending p) 0 = fbufRead s 0 := rfl
  simp only [execUnpackStart, hflen, hread]
  split
  · rfl
  · split
    · rfl
    · split <;> rfl

theorem execUnpackBits_withPending (p : List HostEvent) (k : Nat) (s : State) :
    execUnpackBits k (s.withPending p) = mapNext (State.withPending p) (execUnpackBits k s) := by
  have hurem : (s.withPending p).urem = s.urem := rfl
  have huptr : (s.withPending p).uptr = s.uptr := rfl
  have hbits : gatherBits (s.withPending p) s.uptr.toNat k = gatherBits s s.uptr.toNat k :=
    gatherBits_congr (s := s.withPending p) (t := s) rfl _ _
  simp only [execUnpackBits, hurem, huptr, hbits]
  split
  · rfl
  · cases gatherBits s s.uptr.toNat k <;> rfl

/-- A command neither reads nor changes the list of coming events. -/
theorem exec_withPending (p : List HostEvent) (i : Instr) (s : State) :
    exec i (s.withPending p) = mapNext (State.withPending p) (exec i s) := by
  cases i with
  | packBits k d => exact execPackBits_withPending p k d s
  | packFinish => exact execPackFinish_withPending p s
  | unpackStart => exact execUnpackStart_withPending p s
  | unpackBits k => exact execUnpackBits_withPending p k s
  | ckFrame =>
    exact (congrArg complete (feedFrame_commutes_withPending p s.flen.toNat 0 s.seedEngines)).trans
      (complete_withPending p _)
  | packReset | crcInit | crcByte d | crcCheck | lrcInit | lrcByte d | lrcCheck | ckInit | ckByte d => rfl

/-- A host write neither reads nor changes the list of coming events, whatever its offset (R65). -/
theorem hostWrite_withPending (p : List HostEvent) (off : Nat) (w : Word) (s : State) :
    hostWrite off w (s.withPending p) = mapNext (State.withPending p) (hostWrite off w s) := by
  simp only [hostWrite]
  split
  case isTrue =>
    rw [windowWrite_commutes_withPending p _ w s]
    cases windowWrite (off - 0x100) w s <;> rfl
  case isFalse =>
    split
    case isTrue =>
      cases hd : decode w with
      | ok i => simp only [execute_ok hd, exec_withPending]
      | error r => simp only [execute_error hd]; rfl
    case isFalse =>
      split
      · rfl
      · split
        · rfl
        · split <;> rfl

/-- No event reads or changes the list of events after it. -/
theorem perform_withPending (p : List HostEvent) (e : HostEvent) (s : State) :
    perform e (s.withPending p) = mapNext (State.withPending p) (perform e s) := by
  cases e with
  | read off width =>
    have hproblem : accessProblem off width (s.withPending p) = accessProblem off width s := rfl
    have hvalue : hostRead off (s.withPending p) = hostRead off s := rfl
    simp only [perform, hproblem, hvalue]
    split
    · rfl
    · split <;> rfl
  | write off width w =>
    have hproblem : accessProblem off width (s.withPending p) = accessProblem off width s := rfl
    simp only [perform, hproblem, hostWrite_withPending]
    split <;> rfl
  | reset held => rfl

/-- A step with events pending performs the first of them, and the others stay pending. -/
theorem step_withPending_cons (e : HostEvent) (es : List HostEvent) (s : State) :
    step (s.withPending (e :: es)) = mapNext (State.withPending es) (perform e s) :=
  (step_event rfl).trans (perform_withPending es e s)

/-- Settles O9, by induction on the events: the first step and the first event answer the same, but for the events
pending behind it. -/
theorem runIsEventsInOrder : Obligations.RunIsEventsInOrder := by
  intro es rest s
  change runSteps es.length (s.withPending (es ++ rest)) = performAll es (s.withPending rest)
  induction es generalizing s with
  | nil => rfl
  | cons e es ih =>
    simp only [List.length_cons, List.cons_append, runSteps_succ, step_withPending_cons, performAll,
      perform_withPending]
    cases perform e s with
    | next t => exact ih t
    | fault f => rfl
    | refused r => rfl

end Sys2Proof.Machine
end

section
/-! SUPPORT. Decoding and encoding words: the decoder's answer said by the rows a word selects, and that the decoder and
the encoder undo each other (spec/30_encoding.md R80 to R88; O1, O2, O3). -/

namespace Sys2Proof

/-- The opcode map lists each opcode number once (R83). -/
theorem row_eq_of_op_eq {r r' : OpRow} (hr : r ∈ opcodeMap) (hr' : r' ∈ opcodeMap)
    (h : r'.mnemonic.op = r.mnemonic.op) : r' = r := by
  have hrows : ∀ r ∈ opcodeMap, ∀ r' ∈ opcodeMap, r'.mnemonic.op = r.mnemonic.op → r' = r := by decide
  exact hrows r hr r' hr' h

/-- No word selects two rows (R86): OP decides which. -/
theorem row_eq_of_selects {r r' : OpRow} {w : Word} (hr : r ∈ opcodeMap) (h : r.selects w = true)
    (hr' : r' ∈ opcodeMap) (h' : r'.selects w = true) : r' = r := by
  obtain ⟨hop, -⟩ := (selects_iff r hr w).1 h
  obtain ⟨hop', -⟩ := (selects_iff r' hr' w).1 h'
  exact row_eq_of_op_eq hr hr' (hop'.symm.trans hop)

/-- Every mnemonic has a row of the map. -/
theorem exists_row (m : Mnemonic) : ∃ r ∈ opcodeMap, r.mnemonic = m := by
  cases m <;> decide

/-- A word decodes to the command of the row it selects (R81). -/
theorem decode_of_selects {r : OpRow} {w : Word} (hr : r ∈ opcodeMap) (h : r.selects w = true) :
    decode w = .ok (r.mnemonic.build (kOperand w) (dField w)) := by
  cases hf : opcodeMap.find? (fun r' => r'.selects w) with
  | none => exact absurd h (by simpa using List.find?_eq_none.1 hf r hr)
  | some r' =>
    have heq : r' = r := row_eq_of_selects hr h (List.mem_of_find?_eq_some hf) (by simpa using List.find?_some hf)
    simp only [decode, hf, heq]

/-- A word is illegal where it selects no row (R84). -/
theorem decode_of_not_selects {w : Word} (h : ∀ r ∈ opcodeMap, r.selects w = false) :
    decode w = .error (illegalReason w) := by
  have hf : opcodeMap.find? (fun r => r.selects w) = none := List.find?_eq_none.2 (by simpa using h)
  simp only [decode, hf]

/-- A word selects a row, or it selects none. -/
theorem selects_or_not (w : Word) :
    (∃ r ∈ opcodeMap, r.selects w = true) ∨ ∀ r ∈ opcodeMap, r.selects w = false := by
  by_cases h : ∃ r ∈ opcodeMap, r.selects w = true
  · exact .inl h
  · exact .inr fun r hr => Bool.eq_false_iff.2 fun hs => h ⟨r, hr, hs⟩

/-- Only a word that selects a row decodes, and it decodes to that row's command (R81). -/
theorem exists_row_of_decode {w : Word} {i : Instr} (h : decode w = .ok i) :
    ∃ r ∈ opcodeMap, r.selects w = true ∧ r.mnemonic.build (kOperand w) (dField w) = i := by
  obtain ⟨r, hr, hs⟩ | hnone := selects_or_not w
  · exact ⟨r, hr, hs, Except.ok.inj ((decode_of_selects hr hs).symm.trans h)⟩
  · cases (decode_of_not_selects hnone).symm.trans h

/-- A word does not decode exactly when it selects no row (R84). -/
theorem exists_decode_error_iff (w : Word) :
    (∃ x, decode w = .error x) ↔ ∀ r ∈ opcodeMap, r.selects w = false := by
  refine ⟨fun ⟨x, hx⟩ => ?_, fun h => ⟨_, decode_of_not_selects h⟩⟩
  obtain ⟨r, hr, hs⟩ | hnone := selects_or_not w
  · cases (decode_of_selects hr hs).symm.trans hx
  · exact hnone

/-- The OP field of a word of format C. -/
theorem opField_formatC (op : BitVec 8) (km1 : BitVec 3) (d : Byte) : opField (formatC op km1 d) = op := by
  rw [formatC_eq_fieldsWord, opField_fieldsWord]

/-- The D field of a word of format C. -/
theorem dField_formatC (op : BitVec 8) (km1 : BitVec 3) (d : Byte) : dField (formatC op km1 d) = d := by
  rw [formatC_eq_fieldsWord, dField_fieldsWord]

/-- The KM1 field of a word of format C. -/
theorem km1Field_formatC (op : BitVec 8) (km1 : BitVec 3) (d : Byte) : km1Field (formatC op km1 d) = km1 := by
  rw [formatC_eq_fieldsWord, km1Field_fieldsWord]

/-- The RSV field of a word of format C is zero. -/
theorem rsvField_formatC (op : BitVec 8) (km1 : BitVec 3) (d : Byte) : rsvField (formatC op km1 d) = 0 := by
  rw [formatC_eq_fieldsWord, rsvField_fieldsWord]

/-- The count an assembled word gives back (R82, R88). -/
theorem kOperand_formatC (op : BitVec 8) {k : Nat} (d : Byte) (h : countOk k = true) :
    kOperand (formatC op (km1Of k) d) = k := by
  rw [kOperand, km1Field_formatC, km1Of_toNat h]

/-- The word of a well-formed command selects a row of the command's mnemonic. -/
theorem exists_row_of_encode (i : Instr) (h : i.wellFormed = true) :
    ∃ r ∈ opcodeMap, r.mnemonic = i.mnemonic ∧ r.selects (encode i) = true := by
  open Laws.EncodeSelects in
  cases i with
  | packReset => exact packReset h
  | packBits k d => exact packBits k d h
  | packFinish => exact packFinish h
  | unpackStart => exact unpackStart h
  | unpackBits k => exact unpackBits k h
  | crcInit => exact crcInit h
  | crcByte d => exact crcByte d h
  | crcCheck => exact crcCheck h
  | lrcInit => exact lrcInit h
  | lrcByte d => exact lrcByte d h
  | lrcCheck => exact lrcCheck h
  | ckInit => exact ckInit h
  | ckByte d => exact ckByte d h
  | ckFrame => exact ckFrame h

/-- The operands a well-formed command's word holds are the command's own (R82, R88). -/
theorem build_operands_encode (i : Instr) (h : i.wellFormed = true) :
    i.mnemonic.build (kOperand (encode i)) (dField (encode i)) = i := by
  cases i with
  | packBits k d => simp only [encode, Instr.mnemonic, Mnemonic.build, kOperand_formatC _ d h, dField_formatC]
  | unpackBits k => simp only [encode, Instr.mnemonic, Mnemonic.build, kOperand_formatC _ 0 h]
  | crcByte d | lrcByte d | ckByte d => simp only [encode, Instr.mnemonic, Mnemonic.build, dField_formatC]
  | packReset | packFinish | unpackStart | crcInit | crcCheck | lrcInit | lrcCheck | ckInit | ckFrame => rfl

/-- Settles O2: the word selects the command's own row, and its fields hold the command's operands. -/
theorem decodeOfEncode : Obligations.DecodeOfEncode := by
  intro i hi
  obtain ⟨r, hr, hm, hs⟩ := exists_row_of_encode i hi
  rw [decode_of_selects hr hs, hm, build_operands_encode i hi]

/-- A count KM1 + 1 is 1 to 8 (R82). -/
theorem countOk_kOperand (w : Word) : countOk (kOperand w) = true := by
  have hlt := (km1Field w).isLt
  rw [countOk_iff, kOperand]
  omega

/-- Assembling the count a KM1 field decodes to gives the field back (R82, R88). -/
theorem km1Of_kOperand (w : Word) : km1Of (kOperand w) = km1Field w := by
  rw [km1Of, kOperand, Nat.add_sub_cancel, BitVec.ofNat_toNat, BitVec.setWidth_eq]

/-- A command built with a count from 1 to 8 is well formed. -/
theorem wellFormed_build {k : Nat} (h : countOk k = true) (d : Byte) (m : Mnemonic) :
    (m.build k d).wellFormed = true := by
  cases m with
  | packBits | unpackBits => exact h
  | packReset | packFinish | unpackStart | crcInit | crcByte | crcCheck | lrcInit | lrcByte | lrcCheck | ckInit | ckByte
  | ckFrame => rfl

/-- The word of a command built from a count and a byte, where an operand the command does not use assembles to zero. -/
theorem encode_build (m : Mnemonic) {k : Nat} {d : Byte} (hd : m.usesD = false → d = 0)
    (hk : m.usesKM1 = false → km1Of k = 0) : encode (m.build k d) = formatC m.op (km1Of k) d := by
  cases m with
  | packBits => rfl
  | unpackBits => rw [hd rfl]; rfl
  | crcByte | lrcByte | ckByte => rw [hk rfl]; rfl
  | packReset | packFinish | unpackStart | crcInit | crcCheck | lrcInit | lrcCheck | ckInit | ckFrame =>
    rw [hd rfl, hk rfl]; rfl

/-- Settles O3: the word selects the row of its command, so its fields are the ones the encoder writes. -/
theorem encodeOfDecode : Obligations.EncodeOfDecode := by
  intro w i h
  obtain ⟨r, hr, hs, rfl⟩ := exists_row_of_decode h
  obtain ⟨hop, hrsv, hd, hk⟩ := (selects_iff r hr w).1 hs
  refine ⟨wellFormed_build (countOk_kOperand w) _ _, ?_⟩
  calc encode (r.mnemonic.build (kOperand w) (dField w))
      = formatC (opField w) (km1Field w) (dField w) := by
        rw [encode_build _ hd (by rwa [km1Of_kOperand]), km1Of_kOperand, hop]
    _ = w := by rw [formatC_eq_fieldsWord, ← hrsv, ← word_eq_fieldsWord]

/-- Settles O1: the decoder run on each of the words. -/
theorem specWordsDecode : Obligations.SpecWordsDecode := by
  unfold Obligations.SpecWordsDecode
  decide

end Sys2Proof
end

section
/-! SUPPORT. What a word that selects no row of the opcode map does, and which words those are (spec/30_encoding.md R84,
R86; O4, O5). -/

namespace Sys2Proof.Machine

/-- Executing a word that selects no row raises IllegalCommand: error bit 4 and LAST 5 (R84). -/
theorem execute_of_not_selects {w : Word} (h : ∀ r ∈ opcodeMap, r.selects w = false) (s : State) :
    execute w s = .next { s with err := s.err ||| 0b10000#5, last := 5#3 } :=
  execute_error (decode_of_not_selects h) s

/-- Settles O4: a word selects one row, whose command it decodes to, or none. -/
theorem everyWordExecutesOneRowOrIsIllegal : Obligations.EveryWordExecutesOneRowOrIsIllegal := by
  intro w
  obtain ⟨r, hr, hs⟩ | hnone := selects_or_not w
  · exact .inl ⟨r, hr, hs, fun r' hr' hs' => row_eq_of_selects hr hs hr' hs', execute_ok (decode_of_selects hr hs)⟩
  · exact .inr ⟨hnone, execute_of_not_selects hnone⟩

/-- The opcode numbers the map does not list, by their ranges (R84(a)). -/
def UnlistedOp (op : Nat) : Prop :=
  op = 0x00 ∨ (0x04 ≤ op ∧ op ≤ 0x07) ∨ (0x0A ≤ op ∧ op ≤ 0x0F) ∨ (0x13 ≤ op ∧ op ≤ 0x17) ∨
    (0x1B ≤ op ∧ op ≤ 0x1F) ∨ 0x23 ≤ op

/-- The opcode number of every command is listed. -/
theorem not_unlistedOp_op (m : Mnemonic) : ¬ UnlistedOp m.op.toNat := by
  unfold UnlistedOp
  cases m <;> decide

/-- An opcode number outside the unlisted ranges is some command's (R83). -/
theorem exists_op_of_not_unlistedOp {op : BitVec 8} (h : ¬ UnlistedOp op.toNat) : ∃ m : Mnemonic, m.op = op := by
  have hlisted : ∃ r ∈ opcodeMap, r.mnemonic.op.toNat = op.toNat := by
    simp only [opcodeMap, opcodeMapBits, opcodeMapChecks, List.cons_append, List.nil_append, List.exists_mem_cons_iff,
      Mnemonic.op, BitVec.toNat_ofNat]
    unfold UnlistedOp at h
    omega
  obtain ⟨r, -, hop⟩ := hlisted
  exact ⟨r.mnemonic, BitVec.eq_of_toNat_eq hop⟩

/-- The commands without D, by opcode number (R84(c)). -/
theorem usesD_eq_false_iff (m : Mnemonic) : m.usesD = false ↔
    m.op.toNat ≠ 0x02 ∧ m.op.toNat ≠ 0x11 ∧ m.op.toNat ≠ 0x19 ∧ m.op.toNat ≠ 0x21 := by
  cases m <;> decide

/-- The commands without KM1, by opcode number (R84(d)). -/
theorem usesKM1_eq_false_iff (m : Mnemonic) : m.usesKM1 = false ↔ m.op.toNat ≠ 0x02 ∧ m.op.toNat ≠ 0x09 := by
  cases m <;> decide

/-- A word with an unlisted OP selects no row (R84(a)). -/
theorem not_selects_of_unlistedOp {w : Word} (h : UnlistedOp (opField w).toNat) :
    ∀ r ∈ opcodeMap, r.selects w = false := by
  refine fun r hr => Bool.eq_false_iff.2 fun hs => not_unlistedOp_op r.mnemonic ?_
  obtain ⟨hop, -⟩ := (selects_iff r hr w).1 hs
  rwa [← hop]

/-- A word with a command's OP selects no row exactly when a field the command leaves zero is not (R84(b) to (d)). -/
theorem not_selects_iff_of_op {m : Mnemonic} {w : Word} (hop : m.op = opField w) :
    (∀ r ∈ opcodeMap, r.selects w = false) ↔
      rsvField w ≠ 0 ∨ (m.usesD = false ∧ dField w ≠ 0) ∨ (m.usesKM1 = false ∧ km1Field w ≠ 0) := by
  obtain ⟨r, hr, rfl⟩ := exists_row m
  have hselects : (∀ r' ∈ opcodeMap, r'.selects w = false) ↔ ¬ r.selects w = true := by
    refine ⟨fun h => Bool.eq_false_iff.1 (h r hr), fun h r' hr' => Bool.eq_false_iff.2 fun hs => h ?_⟩
    obtain ⟨hop', -⟩ := (selects_iff r' hr' w).1 hs
    rwa [← row_eq_of_op_eq hr hr' (hop'.symm.trans hop.symm)]
  rw [hselects, selects_iff r hr]
  tauto

/-- A word selects no row exactly on the grounds of R84. -/
theorem not_selects_iff (w : Word) : (∀ r ∈ opcodeMap, r.selects w = false) ↔
    UnlistedOp (opField w).toNat ∨ rsvField w ≠ 0 ∨
      ((opField w).toNat ≠ 0x02 ∧ (opField w).toNat ≠ 0x11 ∧ (opField w).toNat ≠ 0x19 ∧ (opField w).toNat ≠ 0x21 ∧
        dField w ≠ 0) ∨
      ((opField w).toNat ≠ 0x02 ∧ (opField w).toNat ≠ 0x09 ∧ km1Field w ≠ 0) := by
  by_cases hu : UnlistedOp (opField w).toNat
  · exact iff_of_true (not_selects_of_unlistedOp hu) (.inl hu)
  · obtain ⟨m, hop⟩ := exists_op_of_not_unlistedOp hu
    rw [not_selects_iff_of_op hop, usesD_eq_false_iff, usesKM1_eq_false_iff, hop]
    simp only [hu, false_or, and_assoc]

/-- Settles O5: the grounds of R84 are those on which a word selects no row. -/
theorem illegalEncodings : Obligations.IllegalEncodings := fun w =>
  ⟨(exists_decode_error_iff w).trans (not_selects_iff w), fun h => execute_of_not_selects ((not_selects_iff w).2 h)⟩

end Sys2Proof.Machine
end

section
/-! SUPPORT. The assembler: the text of a command's operands reads back, a command's line assembles to its word, and the
words of the pseudo-instructions (spec/30_encoding.md R88, R89; O6). -/

namespace Sys2Proof.Machine

/-- The character of a decimal digit reads back as the digit. -/
theorem decDigit_ofNat {x : Nat} (h : x < 10) : decDigit (Char.ofNat ('0'.toNat + x)) = some x := by
  revert x
  decide

/-- The text of a number below 1000 reads back as the number. -/
theorem parseDec_decimalText {n : Nat} (h : n < 1000) : parseDec (decimalText n) = some n := by
  unfold decimalText
  split
  case isTrue h1 => simp only [parseDec, digits, decDigit_ofNat h1, Nat.zero_mul, Nat.zero_add]
  case isFalse h1 =>
    split
    case isTrue h2 =>
      have h10 : n / 10 < 10 := by omega
      have h1 : n % 10 < 10 := by omega
      simp only [parseDec, digits, decDigit_ofNat h10, decDigit_ofNat h1, Option.some.injEq]
      omega
    case isFalse h2 =>
      have h100 : n / 100 < 10 := by omega
      have h10 : n / 10 % 10 < 10 := by omega
      have h1 : n % 10 < 10 := by omega
      simp only [parseDec, digits, decDigit_ofNat h100, decDigit_ofNat h10, decDigit_ofNat h1, Option.some.injEq]
      omega

/-- A text that reads as a decimal number on from some value holds nothing but digits. -/
theorem decDigit_of_digits {cs : List Char} {acc n : Nat} (h : digits decDigit 10 cs acc = some n) {c : Char}
    (hc : c ∈ cs) : decDigit c ≠ none := by
  induction cs generalizing acc with
  | nil => cases hc
  | cons a cs ih =>
    cases ha : decDigit a with
    | none => simp [digits, ha] at h
    | some v =>
      simp only [digits, ha] at h
      obtain rfl | hc := List.mem_cons.1 hc
      · simp [ha]
      · exact ih h hc

/-- A decimal text holds nothing but digits. -/
theorem not_mem_of_parseDec {cs : List Char} {n : Nat} (h : parseDec cs = some n) {c : Char} (hc : decDigit c = none) :
    c ∉ cs := by
  intro hmem
  cases cs with
  | nil => cases hmem
  | cons a cs => exact decDigit_of_digits h hmem hc

/-- The text of a number holds no comma. -/
theorem comma_not_mem_decimalText {n : Nat} (h : n < 1000) : ',' ∉ decimalText n :=
  not_mem_of_parseDec (parseDec_decimalText h) (by decide)

/-- A text without an `x` is read as a decimal number (R88). -/
theorem parseNumber_eq_parseDec {cs : List Char} (h : 'x' ∉ cs) : parseNumber cs = parseDec cs := by
  unfold parseNumber
  split
  case h_1 => simp at h
  case h_2 => rfl

/-- The text of a count reads back as the count. -/
theorem parseCount_decimalText {k : Nat} (h : countOk k = true) : parseCount (decimalText k) = some k := by
  obtain ⟨-, hle⟩ := (countOk_iff k).1 h
  simp only [parseCount, parseDec_decimalText (n := k) (by omega), h, if_true]

/-- The text of a byte reads back as the byte. -/
theorem parseByte_decimalText (d : Byte) : parseByte (decimalText d.toNat) = some d := by
  have hlt : d.toNat < 256 := d.isLt
  have hdec : parseDec (decimalText d.toNat) = some d.toNat := parseDec_decimalText (by omega)
  have hnum : parseNumber (decimalText d.toNat) = some d.toNat :=
    (parseNumber_eq_parseDec (not_mem_of_parseDec hdec (by decide))).trans hdec
  simp only [parseByte, hnum, hlt, if_true, BitVec.ofNat_toNat, BitVec.setWidth_eq]

/-- A character other than a comma belongs to the operand it stands before. -/
theorem splitOperands_cons {c : Char} (hc : ',' ≠ c) {cs t : List Char} {ts : List (List Char)}
    (h : splitOperands cs = t :: ts) : splitOperands (c :: cs) = (c :: t) :: ts := by
  rw [splitOperands]
  · rw [h]
  · exact fun _ heq => absurd heq.symm hc

/-- A text without a comma is one operand. -/
theorem splitOperands_single {cs : List Char} (h : ',' ∉ cs) : splitOperands cs = [cs] := by
  induction cs with
  | nil => rfl
  | cons c cs ih =>
    obtain ⟨hc, hcs⟩ := List.ne_and_not_mem_of_not_mem_cons h
    exact splitOperands_cons hc (ih hcs)

/-- A comma and a space end an operand. -/
theorem splitOperands_append {cs : List Char} (h : ',' ∉ cs) (ds : List Char) :
    splitOperands (cs ++ ',' :: ' ' :: ds) = cs :: splitOperands ds := by
  induction cs with
  | nil => rfl
  | cons c cs ih =>
    obtain ⟨hc, hcs⟩ := List.ne_and_not_mem_of_not_mem_cons h
    exact splitOperands_cons hc (ih hcs)

/-- A character other than a space belongs to the mnemonic it stands before. -/
theorem splitMnemonic_cons {c : Char} (hc : ' ' ≠ c) (cs : List Char) :
    splitMnemonic (c :: cs) = (c :: (splitMnemonic cs).1, (splitMnemonic cs).2) := by
  rw [splitMnemonic]
  exact fun heq => absurd heq.symm hc

/-- A line without a space is a mnemonic with no operands. -/
theorem splitMnemonic_bare {cs : List Char} (h : ' ' ∉ cs) : splitMnemonic cs = (cs, none) := by
  induction cs with
  | nil => rfl
  | cons c cs ih =>
    obtain ⟨hc, hcs⟩ := List.ne_and_not_mem_of_not_mem_cons h
    rw [splitMnemonic_cons hc, ih hcs]

/-- The first space of a line ends the mnemonic. -/
theorem splitMnemonic_append {cs : List Char} (h : ' ' ∉ cs) (ds : List Char) :
    splitMnemonic (cs ++ ' ' :: ds) = (cs, some ds) := by
  induction cs with
  | nil => rfl
  | cons c cs ih =>
    obtain ⟨hc, hcs⟩ := List.ne_and_not_mem_of_not_mem_cons h
    rw [List.cons_append, splitMnemonic_cons hc, ih hcs]

/-- No mnemonic holds a space. -/
theorem space_not_mem_mnemonicName (m : Mnemonic) : ' ' ∉ (mnemonicName m).toList := by
  cases m <;> decide

/-- A mnemonic is found by its name. -/
theorem find_mnemonicName (m : Mnemonic) :
    allMnemonics.find? (fun m' => (mnemonicName m').toList = (mnemonicName m).toList) = some m := by
  cases m <;> decide

/-- A line that is a mnemonic alone is a command without operands. -/
theorem assembleLine_bare (m : Mnemonic) :
    assembleLine (mnemonicName m).toList = (assembleCommand m []).map (fun i => [encode i]) := by
  simp only [assembleLine, splitMnemonic_bare (space_not_mem_mnemonicName m), find_mnemonicName]

/-- A line of a mnemonic, a space and operands is a command with those operands. -/
theorem assembleLine_operands (m : Mnemonic) (cs : List Char) :
    assembleLine ((mnemonicName m).toList ++ ' ' :: cs) =
      (assembleCommand m (splitOperands cs)).map (fun i => [encode i]) := by
  simp only [assembleLine, splitMnemonic_append (space_not_mem_mnemonicName m), find_mnemonicName]

/-- The text of a count is one operand. -/
theorem splitOperands_count {k : Nat} (h : countOk k = true) : splitOperands (decimalText k) = [decimalText k] := by
  obtain ⟨-, hle⟩ := (countOk_iff k).1 h
  exact splitOperands_single (comma_not_mem_decimalText (by omega))

/-- The text of a byte is one operand. -/
theorem splitOperands_byte (d : Byte) : splitOperands (decimalText d.toNat) = [decimalText d.toNat] :=
  splitOperands_single (comma_not_mem_decimalText (by omega))

/-- The texts of a count and a byte, with a comma and a space between them, are two operands. -/
theorem splitOperands_count_byte {k : Nat} (h : countOk k = true) (d : Byte) :
    splitOperands (decimalText k ++ ',' :: ' ' :: decimalText d.toNat) = [decimalText k, decimalText d.toNat] := by
  obtain ⟨-, hle⟩ := (countOk_iff k).1 h
  rw [splitOperands_append (comma_not_mem_decimalText (by omega)), splitOperands_byte]

/-- The text of a PACK.BITS command is a line of its name and two operands. -/
theorem asmText_packBits (k : Nat) (d : Byte) : asmText (.packBits k d) =
    (mnemonicName .packBits).toList ++ ' ' :: (decimalText k ++ ',' :: ' ' :: decimalText d.toNat) := by
  simp only [asmText, Instr.mnemonic, List.append_assoc, List.cons_append]

/-- The line of a well-formed command assembles to the command's word. -/
theorem assembleLine_asmText (i : Instr) (h : i.wellFormed = true) : assembleLine (asmText i) = some [encode i] := by
  cases i with
  | packBits k d =>
    rw [asmText_packBits, assembleLine_operands, splitOperands_count_byte h]
    simp only [assembleCommand, Mnemonic.usesKM1, Mnemonic.usesD, parseCount_decimalText h, parseByte_decimalText,
      Mnemonic.build, Option.map_some]
  | unpackBits k =>
    refine (assembleLine_operands .unpackBits (decimalText k)).trans ?_
    simp only [assembleCommand, Mnemonic.usesKM1, Mnemonic.usesD, splitOperands_count h, parseCount_decimalText h,
      Mnemonic.build, Option.map_some]
  | crcByte d | lrcByte d | ckByte d =>
    refine (assembleLine_operands _ (decimalText d.toNat)).trans ?_
    simp only [Instr.mnemonic, assembleCommand, Mnemonic.usesKM1, Mnemonic.usesD, splitOperands_byte,
      parseByte_decimalText, Mnemonic.build, Option.map_some]
  | packReset | packFinish | unpackStart | crcInit | crcCheck | lrcInit | lrcCheck | ckInit | ckFrame =>
    exact assembleLine_bare _

/-- A word of format C whose only operand is a byte. -/
theorem formatC_byte (op : BitVec 8) (d : Byte) : formatC op 0 d = op.setWidth 32 ||| (d.setWidth 32 <<< 8) := by
  simp [formatC]

/-- The word of PACK.BITS 8, d: KM1 is 7. -/
theorem encode_packBits_eight (d : Byte) : encode (.packBits 8 d) = 0x00070002#32 ||| (d.setWidth 32 <<< 8) :=
  calc encode (.packBits 8 d)
      = (0x00000002#32 ||| (d.setWidth 32 <<< 8)) ||| 0x00070000#32 := rfl
    _ = (0x00000002#32 ||| 0x00070000#32) ||| (d.setWidth 32 <<< 8) := by ac_rfl

/-- The words of a list of commands that each feed one byte. -/
theorem map_encode_feeds {feed : Byte → Instr} {op : BitVec 8} (h : ∀ d, encode (feed d) = formatC op 0 d)
    (ds : List Byte) :
    (ds.map feed).map encode = ds.map (fun (d : Byte) => (op.setWidth 32 ||| (d.setWidth 32 <<< 8) : Word)) := by
  rw [List.map_map]
  exact List.map_congr_left fun d _ => (h d).trans (formatC_byte op d)

/-- Settles O6: a command's line splits into the name and the operands' texts, and each reads back as what it writes;
a pseudo-instruction's words are those of PACK.BITS, UNPACK.BITS and the byte feeds. -/
theorem assemblerEncodes : Obligations.AssemblerEncodes :=
  ⟨assembleLine_asmText, by decide, fun d => congrArg (fun w => [w]) (encode_packBits_eight d), by decide, by decide,
    map_encode_feeds (feed := .crcByte) (op := 0x11#8) fun _ => rfl,
    map_encode_feeds (feed := .lrcByte) (op := 0x19#8) fun _ => rfl,
    map_encode_feeds (feed := .ckByte) (op := 0x21#8) fun _ => rfl⟩

end Sys2Proof.Machine
end

section
/-! SUPPORT. The packer's words and PACK.BITS as one step (spec/40_bit_packer.md R103 to R105; O31, O32): the
parallel form's 16-bit word grows by one flag at a time, and each flag is one AccPush. -/

namespace Sys2Proof.Machine

/-- Settles O31: PACK.RESET completes with the session cleared, and PACKSTAT is made of the cleared registers. -/
theorem packResetClears : Obligations.PackResetClears :=
  ⟨rfl, fun _ => ⟨_, rfl, rfl, (packstatWord_eq _).trans rfl⟩⟩

/-- The KM1 field of a count, as a number on the bus (R88). -/
theorem km1Of_setWidth {k : Nat} (hk : k ≤ 8) : (km1Of k).setWidth 32 = BitVec.ofNat 32 (k - 1) := by
  apply BitVec.eq_of_toNat_eq
  rw [km1Of, BitVec.toNat_setWidth, BitVec.toNat_ofNat, BitVec.toNat_ofNat]
  omega

/-- A count below eight fits PCNT. -/
theorem pcnt_ofNat_toNat {n : Nat} (h : n < 8) : (BitVec.ofNat 3 n).toNat = n := by
  rw [BitVec.toNat_ofNat, Nat.mod_eq_of_lt h]

/-- A flag shifted to place `c` is bit `c` and no other. -/
theorem getLsbD_ofBool_shift {n : Nat} (b : Bool) (c : Nat) {i : Nat} (hi : i < n) :
    ((BitVec.ofBool b).setWidth n <<< c).getLsbD i = (decide (i = c) && b) := by
  rw [BitVec.getLsbD_shiftLeft, BitVec.getLsbD_setWidth, BitVec.getLsbD_ofBool]
  obtain hlt | rfl | hgt := lt_trichotomy i c
  · simp [hlt, hlt.ne]
  · simp [hi, Nat.zero_lt_of_lt hi]
  · simp [hgt.ne', Nat.sub_ne_zero_of_lt hgt]

/-- A shifted flag leaves every other bit zero, those past the width too. -/
theorem getLsbD_ofBool_shift_of_ne {n : Nat} (b : Bool) {c i : Nat} (h : i ≠ c) :
    ((BitVec.ofBool b).setWidth n <<< c).getLsbD i = false := by
  by_cases hi : i < n
  · rw [getLsbD_ofBool_shift b c hi, decide_eq_false h, Bool.false_and]
  · exact BitVec.getLsbD_of_ge _ i (Nat.le_of_not_lt hi)

/-- Flags in two parts: the second from where the first ends (R105). -/
theorem pushFlags_append (xs ys : List Bool) (s : State) :
    pushFlags (xs ++ ys) s = pushFlags xs s >>= pushFlags ys := by
  induction xs generalizing s with
  | nil => rfl
  | cons x xs ih =>
    simp only [List.cons_append, pushFlags]
    cases accPush x s with
    | error f => rfl
    | ok t => exact ih t

theorem pushFlags_single (b : Bool) (s : State) : pushFlags [b] s = accPush b s := by
  simp only [pushFlags]
  cases accPush b s <;> rfl

theorem flagsOf_succ (k : Nat) (d : Byte) : flagsOf (k + 1) d = flagsOf k d ++ [d.getLsbD k] := by
  simp [flagsOf, List.range_succ]

theorem length_flagsOf (k : Nat) (d : Byte) : (flagsOf k d).length = k := by simp [flagsOf]

/-- The mask keeps the flags below place `k` (R105). -/
theorem getLsbD_lowFlags {k : Nat} (hk : k ≤ 8) (d : Byte) (i : Nat) :
    (lowFlags k d).getLsbD i = (decide (i < k) && d.getLsbD i) := by
  have hmask : ∀ k ≤ 8, 1#8 <<< k - 1#8 = BitVec.ofNat 8 (2 ^ k - 1) := by decide
  rw [lowFlags, hmask k hk, BitVec.getLsbD_and, BitVec.getLsbD_ofNat, Nat.testBit_two_pow_sub_one]
  by_cases hi : i < 8
  · simp [hi, Bool.and_comm]
  · simp [hi, d.getLsbD_of_ge i (Nat.le_of_not_lt hi)]

/-- `v` of the parallel form (R105): the accumulator with the first `k` flags of `d` above it. -/
def State.packWord (k : Nat) (d : Byte) (s : State) : BitVec 16 :=
  s.pacc.setWidth 16 ||| ((lowFlags k d).setWidth 16 <<< s.pcnt.toNat)

/-- The parallel form where the group stays partial (R105). -/
theorem packParallel_of_lt {k : Nat} (d : Byte) {s : State} (h : s.pcnt.toNat + k < 8) :
    s.packParallel k d = { s with pacc := (s.packWord k d).extractLsb' 0 8,
                                  pcnt := BitVec.ofNat 3 (s.pcnt.toNat + k) } := by
  simp [State.packParallel, State.packWord, Nat.not_le_of_lt h]

/-- The parallel form where the group completes (R105). -/
theorem packParallel_of_ge {k : Nat} (d : Byte) {s : State} (h : 8 ≤ s.pcnt.toNat + k) :
    s.packParallel k d = { s with
      fbuf := s.fbuf.write (1 + s.pn.toNat) ((s.packWord k d).extractLsb' 0 8), pn := s.pn + 1#8,
      pacc := (s.packWord k d).extractLsb' 8 8, pcnt := BitVec.ofNat 3 (s.pcnt.toNat + k - 8) } := by
  simp [State.packParallel, State.packWord, h]

/-- The places of the word: the flags stand above the PCNT bits of the group (R105). -/
theorem getLsbD_packWord {k : Nat} (hk : k ≤ 8) (d : Byte) (s : State) {i : Nat} (hi : i < 16) :
    (s.packWord k d).getLsbD i = (s.pacc.getLsbD i ||
      (decide (s.pcnt.toNat ≤ i) && decide (i - s.pcnt.toNat < k) && d.getLsbD (i - s.pcnt.toNat))) := by
  by_cases hle : s.pcnt.toNat ≤ i
  · simp [State.packWord, getLsbD_lowFlags hk, hi, hle, Nat.not_lt_of_le hle]
  · simp [State.packWord, hi, hle, Nat.lt_of_not_le hle]

/-- With no flag the word is the accumulator. -/
theorem packWord_zero (d : Byte) (s : State) : s.packWord 0 d = s.pacc.setWidth 16 := by
  simp [State.packWord, lowFlags]

/-- One flag more goes to the next place (R104). -/
theorem packWord_succ {k : Nat} (hk : k < 8) (d : Byte) (s : State) : s.packWord (k + 1) d =
    s.packWord k d ||| ((BitVec.ofBool (d.getLsbD k)).setWidth 16 <<< (s.pcnt.toNat + k)) := by
  apply BitVec.eq_of_getLsbD_eq
  intro i hi
  rw [BitVec.getLsbD_or, getLsbD_packWord hk d s hi, getLsbD_packWord hk.le d s hi, getLsbD_ofBool_shift _ _ hi]
  by_cases hlast : i = s.pcnt.toNat + k
  · simp [hlast]
  · have hlt : s.pcnt.toNat ≤ i → (i - s.pcnt.toNat < k + 1 ↔ i - s.pcnt.toNat < k) := by omega
    by_cases hle : s.pcnt.toNat ≤ i
    · simp [hlast, hlt hle]
    · simp [hlast, hle]

/-- Up to eight flags leave the upper byte of the word zero. -/
theorem packWord_high_eq_zero {k : Nat} (d : Byte) {s : State} (h : s.pcnt.toNat + k ≤ 8) :
    (s.packWord k d).extractLsb' 8 8 = 0x00#8 := by
  apply BitVec.eq_of_getLsbD_eq
  intro i hi
  have hpacc : s.pacc.getLsbD (8 + i) = false := s.pacc.getLsbD_of_ge _ (Nat.le_add_right 8 i)
  have hpast : ¬ 8 + i - s.pcnt.toNat < k := by omega
  rw [BitVec.getLsbD_extractLsb', getLsbD_packWord (by omega) d s (by omega), hpacc, decide_eq_false hpast]
  simp

/-- A flag in the lower byte of a word. -/
theorem extract_low_or_shift (v : BitVec 16) (b : Bool) (c : Nat) :
    (v ||| ((BitVec.ofBool b).setWidth 16 <<< c)).extractLsb' 0 8 =
      v.extractLsb' 0 8 ||| ((BitVec.ofBool b).setWidth 8 <<< c) := by
  apply BitVec.eq_of_getLsbD_eq
  intro i hi
  simp only [BitVec.getLsbD_extractLsb', BitVec.getLsbD_or, Nat.zero_add, getLsbD_ofBool_shift b c hi,
    getLsbD_ofBool_shift b c (Nat.lt_trans hi (by decide : 8 < 16)), hi, decide_true, Bool.true_and]

/-- A flag in the upper byte of a word. -/
theorem extract_high_or_shift (v : BitVec 16) (b : Bool) {c : Nat} (hc : 8 ≤ c) :
    (v ||| ((BitVec.ofBool b).setWidth 16 <<< c)).extractLsb' 8 8 =
      v.extractLsb' 8 8 ||| ((BitVec.ofBool b).setWidth 8 <<< (c - 8)) := by
  apply BitVec.eq_of_getLsbD_eq
  intro i hi
  have hplace : 8 + i = c ↔ i = c - 8 := by omega
  simp only [BitVec.getLsbD_extractLsb', BitVec.getLsbD_or, getLsbD_ofBool_shift b (c - 8) hi,
    getLsbD_ofBool_shift b c (by omega : 8 + i < 16), hplace, hi, decide_true, Bool.true_and]

/-- A flag in the upper byte leaves the lower byte alone. -/
theorem extract_low_or_shift_of_ge (v : BitVec 16) (b : Bool) {c : Nat} (hc : 8 ≤ c) :
    (v ||| ((BitVec.ofBool b).setWidth 16 <<< c)).extractLsb' 0 8 = v.extractLsb' 0 8 := by
  rw [extract_low_or_shift, BitVec.shiftLeft_eq_zero hc, BitVec.or_zero]

/-- AccPush of a flag at place `c` of a group that stays partial (R104). -/
theorem accPush_of_lt (b : Bool) {s : State} {c : Nat} (hc : s.pcnt.toNat = c) (hlt : c < 7) :
    accPush b s = .ok { s with pacc := s.pacc ||| ((BitVec.ofBool b).setWidth 8 <<< c),
                               pcnt := BitVec.ofNat 3 (c + 1) } := by
  subst hc
  have hpart : s.pcnt ≠ 7#3 := fun h => hlt.ne (congrArg BitVec.toNat h)
  rw [accPush_partial b s hpart, ← BitVec.ofNat_add_ofNat, BitVec.ofNat_toNat, BitVec.setWidth_eq]

/-- AccPush of the flag that completes the group (R104). -/
theorem accPush_of_seven (b : Bool) {s : State} (hc : s.pcnt.toNat = 7) (hn : s.pn.toNat < 255) :
    accPush b s = .ok { s with
      fbuf := s.fbuf.write (1 + s.pn.toNat) (s.pacc ||| ((BitVec.ofBool b).setWidth 8 <<< 7)),
      pn := s.pn + 1#8, pacc := 0x00#8, pcnt := 0#3 } := by
  rw [accPush_full b s (BitVec.eq_of_toNat_eq hc) hn, hc]

/-- One flag more after the first `k`: the AccPush of the serial form on the parallel form's state (R104, R105). -/
theorem accPush_packParallel {k : Nat} (hk : k < 8) (d : Byte) {s : State} (hfits : s.packed + (k + 1) ≤ 2040) :
    accPush (d.getLsbD k) (s.packParallel k d) = .ok (s.packParallel (k + 1) d) := by
  have hcap : 8 * s.pn.toNat + s.pcnt.toNat + (k + 1) ≤ 2040 := hfits
  have hpcnt := s.pcnt.isLt
  have hword := packWord_succ hk d s
  obtain hlt | hfull | hge := lt_trichotomy (s.pcnt.toNat + k) 7
  · have hc := pcnt_ofNat_toNat (hlt.trans (by decide))
    rw [packParallel_of_lt d (by omega), packParallel_of_lt d (by omega), hword, extract_low_or_shift,
      accPush_of_lt _ hc hlt, Nat.add_assoc]
  · have hc := pcnt_ofNat_toNat (hfull.trans_lt (by decide))
    have hhigh := packWord_high_eq_zero (k := k + 1) d (s := s) (by omega)
    rw [packParallel_of_lt d (by omega), packParallel_of_ge d (by omega), hhigh, hword, extract_low_or_shift,
      accPush_of_seven _ (hc.trans hfull) (by simp only; omega), hfull, ← Nat.add_assoc, hfull]
  · have hc := pcnt_ofNat_toNat (n := s.pcnt.toNat + k - 8) (by omega)
    have hnext : s.pcnt.toNat + k - 8 + 1 = s.pcnt.toNat + (k + 1) - 8 := by omega
    rw [packParallel_of_ge d (by omega), packParallel_of_ge d (by omega), hword,
      extract_low_or_shift_of_ge _ _ (by omega), extract_high_or_shift _ _ (by omega),
      accPush_of_lt _ hc (by omega), hnext]

/-- The parallel form with no flag is the state itself. -/
theorem packParallel_zero (d : Byte) (s : State) : s.packParallel 0 d = s := by
  have hpacc : (s.pacc.setWidth 16).extractLsb' 0 8 = s.pacc := by
    rw [BitVec.extractLsb'_setWidth_of_le (by decide)]; exact BitVec.extractLsb'_eq_self
  rw [packParallel_of_lt d s.pcnt.isLt, packWord_zero, hpacc]
  simp

/-- The serial form and the parallel form of PACK.BITS's effect agree, by induction on `k` (R105). -/
theorem pushFlags_flagsOf {k : Nat} (hk : k ≤ 8) (d : Byte) {s : State} (hfits : s.packed + k ≤ 2040) :
    pushFlags (flagsOf k d) s = .ok (s.packParallel k d) := by
  induction k with
  | zero => rw [packParallel_zero]; rfl
  | succ k ih =>
    rw [flagsOf_succ, pushFlags_append, ih (by omega) (by omega), ok_bind, pushFlags_single,
      accPush_packParallel hk d hfits]

/-- PACK.BITS within the capacity completes with the state of the parallel form (R105). -/
theorem exec_packBits {k : Nat} (hk : k ≤ 8) (d : Byte) {s : State} (hfits : s.packed + k ≤ 2040) :
    exec (.packBits k d) s = .next (s.packParallel k d).completed :=
  (if_neg (Nat.not_lt_of_le hfits)).trans (congrArg complete (pushFlags_flagsOf hk d hfits))

/-- PACK.BITS past the capacity raises PackOverflow (R105). -/
theorem exec_packBits_overflow {k : Nat} (d : Byte) {s : State} (hover : 2040 < s.packed + k) :
    exec (.packBits k d) s = .next (s.raised .packOverflow) :=
  if_pos hover

/-- Settles O32: past the capacity the error action, within it the serial form, which is the parallel one. -/
theorem packBitsSerialIsParallel : Obligations.PackBitsSerialIsParallel := by
  intro s k d _ hk
  refine ⟨?_, exec_packBits_overflow d, exec_packBits hk d⟩
  rw [← km1Of_setWidth hk]
  rfl

end Sys2Proof.Machine
end

section
/-! SUPPORT. PACK.FINISH as one update of the state, and what the packer's commands leave unchanged
(spec/40_bit_packer.md R103 to R106; O33, O35). -/

namespace Sys2Proof.Machine

/-- The count `n` of PACK.FINISH (R106). -/
def State.frameCount (s : State) : Nat := if s.pcnt = 0#3 then s.pn.toNat else s.pn.toNat + 1

/-- The frame buffer with the partial group, if there is one, emitted (R106). -/
def State.flushed (s : State) : Memory :=
  if s.pcnt = 0#3 then s.fbuf else s.fbuf.write (1 + s.pn.toNat) s.pacc

/-- The state PACK.FINISH makes (R106). -/
def State.finished (s : State) : State :=
  { s with fbuf := s.flushed.write 0 (BitVec.ofNat 8 s.frameCount), flen := BitVec.ofNat 9 (s.frameCount + 1),
           result := BitVec.ofNat 32 s.frameCount, pacc := 0x00#8, pcnt := 0#3, pn := 0#8 }

/-- The partial group has a place in the frame buffer (R25). -/
def State.PartialFits (s : State) : Prop := s.pcnt ≠ 0#3 → s.pn.toNat ≤ 254

theorem frameCount_le {s : State} (h : s.PartialFits) : s.frameCount ≤ 255 := by
  unfold State.frameCount
  split
  case isTrue => exact Nat.le_of_lt_succ s.pn.isLt
  case isFalse hpart => exact Nat.succ_le_succ (h hpart)

theorem flushPartial_eq {s : State} (h : s.PartialFits) :
    flushPartial s = .ok ({ s with fbuf := s.flushed }, s.frameCount) := by
  unfold flushPartial State.flushed State.frameCount
  split
  case isTrue => rfl
  case isFalse hpart =>
    have hi : 1 + s.pn.toNat < Config.fbufBytes := by
      have := h hpart
      simp only [Config.fbufBytes]; omega
    simp only [fbufWrite, if_pos hi, ok_bind]

/-- The partial group of a command that answers a next state has its place (R106). -/
theorem partialFits_of_flushPartial {s : State} {vn : State × Nat} (h : flushPartial s = .ok vn) : s.PartialFits := by
  intro hpart
  rw [flushPartial, if_neg hpart] at h
  obtain ⟨v, hv, -⟩ := bind_ok h
  obtain ⟨hi, -⟩ := (fbufWrite_ok_iff _ _ _ _).1 hv
  simp only [Config.fbufBytes] at hi
  omega

/-- PACK.FINISH, where the count fits (R106). -/
theorem exec_packFinish {s : State} (h : s.PartialFits) : exec .packFinish s = .next s.finished.completed := by
  simp only [exec, execPackFinish, flushPartial_eq h, ok_bind, publishFrame]
  rfl

/-- Settles O33: the count is a byte, and the command is one update of the state. -/
theorem packFinishPublishesFrame : Obligations.PackFinishPublishesFrame :=
  ⟨rfl, fun _ h => ⟨frameCount_le h, exec_packFinish h⟩⟩

/-- An error sets no sticky bit but its own (R213). -/
theorem getLsbD_raised_err {e : ErrorCode} (s : State) {i : Nat} (h : e.bit.getLsbD i = false) :
    (s.raised e).err.getLsbD i = s.err.getLsbD i := by
  rw [State.raised_err, BitVec.getLsbD_or, h, Bool.or_false]

/-- The one sticky bit of an error (R211). -/
theorem getLsbD_bit {e : ErrorCode} {i : Nat} (h : i ≠ e.code.toNat - 1) : e.bit.getLsbD i = false :=
  getLsbD_ofBool_shift_of_ne true h

/-- The parallel form stores at `1 + PN` where the group completes, and nowhere else (R105). -/
theorem packParallel_frame (k : Nat) (d : Byte) (s : State) :
    s.packParallel k d = { s with
      pacc := (s.packParallel k d).pacc, pcnt := (s.packParallel k d).pcnt, pn := (s.packParallel k d).pn,
      fbuf := (s.packParallel k d).fbuf } ∧
    ∀ a, (8 ≤ s.pcnt.toNat + k → a ≠ 1 + s.pn.toNat) → (s.packParallel k d).fbuf.read a = s.fbuf.read a := by
  by_cases hfull : 8 ≤ s.pcnt.toNat + k
  · rw [packParallel_of_ge d hfull]
    exact ⟨rfl, fun a ha => Memory.read_write_of_ne _ _ (ha hfull)⟩
  · rw [packParallel_of_lt d (Nat.lt_of_not_le hfull)]
    exact ⟨rfl, fun _ _ => rfl⟩

/-- PACK.FINISH stores at 0 and, for a partial group, at `1 + PN` (R106). -/
theorem finished_read {s : State} {a : Nat} (h0 : a ≠ 0) (ha : s.pcnt ≠ 0#3 → a ≠ 1 + s.pn.toNat) :
    s.finished.fbuf.read a = s.fbuf.read a := by
  refine (Memory.read_write_of_ne _ _ h0).trans ?_
  unfold State.flushed
  split
  case isTrue => rfl
  case isFalse hpart => exact Memory.read_write_of_ne _ _ (ha hpart)

/-- Settles O35: each command's state is known as one update, so what it keeps can be read off. -/
theorem packerFrame : Obligations.PackerFrame := by
  intro s t
  refine ⟨fun h => ?_, fun k d _ hk h => ?_, fun h => ?_⟩
  · cases h; rfl
  · by_cases hfits : s.packed + k ≤ 2040
    · rw [exec_packBits hk d hfits] at h
      obtain rfl := Host.Outcome.next.inj h
      obtain ⟨hframe, hread⟩ := packParallel_frame k d s
      have herr : (s.packParallel k d).err = s.err := by rw [hframe]
      rw [State.completed_err, herr]
      exact ⟨congrArg State.completed hframe, fun _ _ => rfl, hread⟩
    · rw [exec_packBits_overflow d (Nat.lt_of_not_le hfits)] at h
      cases h
      exact ⟨rfl, fun _ hi => getLsbD_raised_err s (getLsbD_bit hi), fun _ _ => rfl⟩
  · obtain ⟨u, ⟨v, n, hflush, -⟩, -⟩ := execPackFinish_cases h
    rw [exec_packFinish (partialFits_of_flushPartial hflush)] at h
    cases h
    exact ⟨rfl, fun _ h0 ha => finished_read h0 ha⟩

end Sys2Proof.Machine
end

section
/-! SUPPORT. The packer refines `pack` (spec/40_bit_packer.md R101, R104, R107; O34): after the flags `bits` the
complete groups stand in the frame buffer and the rest in the accumulator, whatever the commands that pushed them. -/

namespace Sys2Proof.Machine

/-- Byte `m` of the packed data: the flags from `8 m` on (R101). -/
def packedByte (bits : List Bool) (m : Nat) : Byte := groupByte (bits.drop (8 * m))

/-- `pack`'s inner step (R101): flag `j` of the group joins the byte. -/
def joinFlag (flags : List Bool) (byte : Byte) (j : Nat) : Byte :=
  if flags.getD j false then byte ||| (1#8 <<< j) else byte

theorem groupByte_eq_foldl (flags : List Bool) : groupByte flags = (List.range 8).foldl (joinFlag flags) 0#8 := rfl

theorem joinFlag_eq (flags : List Bool) (byte : Byte) (j : Nat) :
    joinFlag flags byte j = byte ||| ((BitVec.ofBool (flags.getD j false)).setWidth 8 <<< j) := by
  unfold joinFlag
  split
  case isTrue hflag => rw [hflag]; rfl
  case isFalse hflag => rw [Bool.eq_false_of_not_eq_true hflag]; simp

/-- The first `n` steps place the first `n` flags. -/
theorem getLsbD_foldl_joinFlag (flags : List Bool) (n : Nat) {j : Nat} (hj : j < 8) :
    ((List.range n).foldl (joinFlag flags) 0#8).getLsbD j = (decide (j < n) && flags.getD j false) := by
  induction n with
  | zero => simp
  | succ n ih =>
    rw [List.range_succ, List.foldl_concat, joinFlag_eq, BitVec.getLsbD_or, ih, getLsbD_ofBool_shift _ _ hj]
    by_cases hlast : j = n
    · simp [hlast]
    · have hlt : j < n + 1 ↔ j < n := by omega
      simp [hlast, hlt]

/-- Bit `j` of byte `m` of the packed data is flag `8 m + j` (R101). -/
theorem getLsbD_packedByte (bits : List Bool) (m : Nat) {j : Nat} (hj : j < 8) :
    (packedByte bits m).getLsbD j = bits.getD (8 * m + j) false := by
  rw [packedByte, groupByte_eq_foldl, getLsbD_foldl_joinFlag _ _ hj, List.getD_eq_getElem?_getD, List.getElem?_drop,
    List.getD_eq_getElem?_getD, decide_eq_true hj, Bool.true_and]

/-- The flags with one more. -/
theorem getD_append_flag (bits : List Bool) (b : Bool) (p : Nat) :
    (bits ++ [b]).getD p false = (bits.getD p false || (decide (p = bits.length) && b)) := by
  obtain hlt | rfl | hgt := lt_trichotomy p bits.length
  · simp [List.getD_eq_getElem?_getD, List.getElem?_append_left hlt, hlt.ne]
  · simp
  · have hout : (bits ++ [b]).length ≤ p := by simpa using hgt
    simp [List.getD_eq_getElem?_getD, List.getElem?_eq_none hout, hgt.le, hgt.ne']

/-- A complete group is not changed by a later flag. -/
theorem packedByte_append (bits : List Bool) (b : Bool) {m : Nat} (hm : m < bits.length / 8) :
    packedByte (bits ++ [b]) m = packedByte bits m := by
  apply BitVec.eq_of_getLsbD_eq
  intro j hj
  have hne : 8 * m + j ≠ bits.length := by omega
  simp only [getLsbD_packedByte _ _ hj, getD_append_flag, hne, decide_false, Bool.false_and, Bool.or_false]

/-- The next flag joins the group it belongs to at the next place (R104). -/
theorem packedByte_append_last (bits : List Bool) (b : Bool) :
    packedByte (bits ++ [b]) (bits.length / 8) =
      packedByte bits (bits.length / 8) ||| ((BitVec.ofBool b).setWidth 8 <<< (bits.length % 8)) := by
  apply BitVec.eq_of_getLsbD_eq
  intro j hj
  have hplace : 8 * (bits.length / 8) + j = bits.length ↔ j = bits.length % 8 := by omega
  simp only [getLsbD_packedByte _ _ hj, BitVec.getLsbD_or, getD_append_flag, getLsbD_ofBool_shift _ _ hj, hplace]

/-- Past the last flag a byte of the packed data is zero. -/
theorem packedByte_of_length_le {bits : List Bool} {m : Nat} (h : bits.length ≤ 8 * m) :
    packedByte bits m = 0x00#8 := by
  rw [packedByte, List.drop_eq_nil_of_le h]
  rfl

/-- The session has accumulated the flags `bits`: the complete groups in the frame buffer, the partial one in PACC
(R23 to R25). -/
structure State.Accumulated (bits : List Bool) (s : State) : Prop where
  pcnt : s.pcnt.toNat = bits.length % 8
  pn : s.pn.toNat = bits.length / 8
  pacc : s.pacc = packedByte bits (bits.length / 8)
  emitted : ∀ m, m < bits.length / 8 → s.fbuf.read (1 + m) = some (packedByte bits m)

theorem accumulated_nil {s : State} (h : s.PackEmpty) : s.Accumulated [] := by
  obtain ⟨hpacc, hpcnt, hpn⟩ := h
  exact ⟨by simp [hpcnt], by simp [hpn], hpacc, nofun⟩

theorem accumulated_completed {bits : List Bool} {s : State} (h : s.Accumulated bits) : s.completed.Accumulated bits :=
  ⟨h.pcnt, h.pn, h.pacc, h.emitted⟩

theorem packed_of_accumulated {bits : List Bool} {s : State} (h : s.Accumulated bits) : s.packed = bits.length := by
  rw [State.packed, h.pn, h.pcnt, Nat.div_add_mod]

/-- AccPush accumulates one flag more (R104). -/
theorem accPush_accumulates {bits : List Bool} (b : Bool) {s : State} (h : s.Accumulated bits)
    (hroom : bits.length < 2040) : ∃ t, accPush b s = .ok t ∧ t.Accumulated (bits ++ [b]) := by
  have hlen : (bits ++ [b]).length = bits.length + 1 := List.length_append
  have hbyte : s.pacc ||| ((BitVec.ofBool b).setWidth 8 <<< (bits.length % 8)) =
      packedByte (bits ++ [b]) (bits.length / 8) := by rw [h.pacc, packedByte_append_last]
  have hkeep : ∀ m, m < bits.length / 8 → s.fbuf.read (1 + m) = some (packedByte (bits ++ [b]) m) :=
    fun m hm => by rw [h.emitted m hm, packedByte_append bits b hm]
  by_cases hfull : bits.length % 8 = 7
  · have hmod : (bits.length + 1) % 8 = 0 := by omega
    have hdiv : (bits.length + 1) / 8 = bits.length / 8 + 1 := by omega
    rw [hfull] at hbyte
    refine ⟨_, accPush_of_seven b (h.pcnt.trans hfull) (by rw [h.pn]; omega), ?_, ?_, ?_, fun m hm => ?_⟩
    · rw [hlen, hmod]; rfl
    · rw [hlen, hdiv, BitVec.toNat_add, h.pn, BitVec.toNat_ofNat]; omega
    · rw [packedByte_of_length_le (by rw [hlen]; omega)]
    · rw [hbyte, h.pn, Memory.read_write]
      split
      case isTrue hm' => rw [Nat.add_left_cancel hm']
      case isFalse hm' => exact hkeep m (by omega)
  · have hmod : (bits.length + 1) % 8 = bits.length % 8 + 1 := by omega
    have hdiv : (bits.length + 1) / 8 = bits.length / 8 := by omega
    refine ⟨_, accPush_of_lt b h.pcnt (by omega), ?_, ?_, ?_, fun m hm => ?_⟩
    · rw [hlen, hmod, pcnt_ofNat_toNat (by omega)]
    · rw [hlen, hdiv, h.pn]
    · rw [hlen, hdiv, hbyte]
    · exact hkeep m (by rwa [hlen, hdiv] at hm)

/-- The flags of one command are accumulated in order (R105). -/
theorem pushFlags_accumulates {bits : List Bool} (bs : List Bool) {s : State} (h : s.Accumulated bits)
    (hroom : bits.length + bs.length ≤ 2040) : ∃ t, pushFlags bs s = .ok t ∧ t.Accumulated (bits ++ bs) := by
  induction bs generalizing bits s with
  | nil => exact ⟨s, rfl, by rwa [List.append_nil]⟩
  | cons b bs ih =>
    rw [List.length_cons] at hroom
    obtain ⟨u, hu, hacc⟩ := accPush_accumulates b h (by omega)
    obtain ⟨t, ht, hall⟩ := ih hacc (by simp; omega)
    refine ⟨t, ?_, by simpa using hall⟩
    rw [pushFlags, hu, ok_bind, ht]

/-- PACK.BITS within the capacity accumulates its flags (R105). -/
theorem exec_packBits_accumulates {bits : List Bool} (k : Nat) (d : Byte) {s : State} (h : s.Accumulated bits)
    (hroom : bits.length + k ≤ 2040) :
    ∃ t, exec (.packBits k d) s = .next t ∧ t.Accumulated (bits ++ flagsOf k d) := by
  obtain ⟨t, ht, hacc⟩ := pushFlags_accumulates (flagsOf k d) h (by rwa [length_flagsOf])
  have hfits : ¬ s.packed + k > Config.maxBits := by
    rw [packed_of_accumulated h]; exact Nat.not_lt_of_le hroom
  exact ⟨t.completed, (if_neg hfits).trans (congrArg complete ht), accumulated_completed hacc⟩

/-- Any split of the flags into commands accumulates them (R107). -/
theorem execAll_packCommands {bits : List Bool} (cs : List (Nat × Byte)) {s : State} (h : s.Accumulated bits)
    (hroom : bits.length + (chunkFlags cs).length ≤ 2040) :
    ∃ t, execAll (packCommands cs) s = .next t ∧ t.Accumulated (bits ++ chunkFlags cs) := by
  induction cs generalizing bits s with
  | nil => exact ⟨s, rfl, by simpa [chunkFlags] using h⟩
  | cons c cs ih =>
    have hflags : chunkFlags (c :: cs) = flagsOf c.1 c.2 ++ chunkFlags cs := List.flatMap_cons
    rw [hflags, List.length_append, length_flagsOf] at hroom
    obtain ⟨u, hu, hacc⟩ := exec_packBits_accumulates c.1 c.2 h (by omega)
    obtain ⟨t, ht, hall⟩ := ih hacc (by simp [length_flagsOf]; omega)
    refine ⟨t, ?_, by rwa [hflags, ← List.append_assoc]⟩
    exact (congrArg (andThen · (execAll (packCommands cs))) hu).trans ht

/-- The session has a partial group exactly where the flags do not fill the last byte (R24). -/
theorem pcnt_eq_zero_iff {bits : List Bool} {s : State} (h : s.Accumulated bits) :
    s.pcnt = 0#3 ↔ bits.length % 8 = 0 := by
  rw [← h.pcnt, ← BitVec.toNat_inj]
  rfl

/-- The partial group of a session within the capacity has its place (R25). -/
theorem partialFits_of_accumulated {bits : List Bool} {s : State} (h : s.Accumulated bits)
    (hroom : bits.length ≤ 2040) : s.PartialFits := by
  intro hpart
  rw [ne_eq, pcnt_eq_zero_iff h] at hpart
  rw [h.pn]
  omega

/-- The count of PACK.FINISH is the number of groups, the last one possibly partial (R100, R106). -/
theorem frameCount_of_accumulated {bits : List Bool} {s : State} (h : s.Accumulated bits) :
    s.frameCount = packedCount bits := by
  simp only [State.frameCount, packedCount, pcnt_eq_zero_iff h, h.pn]
  split <;> omega

/-- Every byte of the packed data stands in the flushed frame buffer (R106). -/
theorem flushed_read_of_accumulated {bits : List Bool} {s : State} (h : s.Accumulated bits) {m : Nat}
    (hm : m < packedCount bits) : s.flushed.read (1 + m) = some (packedByte bits m) := by
  simp only [packedCount] at hm
  simp only [State.flushed, pcnt_eq_zero_iff h, h.pn, h.pacc]
  split
  case isTrue hwhole => exact h.emitted m (by omega)
  case isFalse hpart =>
    rw [Memory.read_write]
    split
    case isTrue hlast => rw [Nat.add_left_cancel hlast]
    case isFalse hne => exact h.emitted m (by omega)

theorem pack_eq (bits : List Bool) :
    pack bits = BitVec.ofNat 8 (packedCount bits) :: (List.range (packedCount bits)).map (packedByte bits) := rfl

theorem length_pack (bits : List Bool) : (pack bits).length = packedCount bits + 1 := by simp [pack_eq]

/-- The finished frame is `pack` of the flags (R101, R107). -/
theorem finished_holds_pack {bits : List Bool} {s : State} (h : s.Accumulated bits) :
    s.finished.fbuf.holds 0 (pack bits) := by
  intro j hj
  rw [length_pack] at hj
  simp only [State.finished, frameCount_of_accumulated h, pack_eq, Nat.zero_add]
  cases j with
  | zero => simp
  | succ m =>
    have hm : m < packedCount bits := Nat.lt_of_succ_lt_succ hj
    rw [Memory.read_write_of_ne _ _ (Nat.add_one_ne_zero m), List.getElem?_cons_succ, List.getElem?_map,
      List.getElem?_range hm, Nat.add_comm m 1]
    exact flushed_read_of_accumulated h hm

theorem packedCount_le {bits : List Bool} (h : bits.length ≤ 2040) : packedCount bits ≤ 255 := by
  rw [packedCount]
  omega

/-- Settles O34: the commands accumulate the flags, and PACK.FINISH publishes them with their count. -/
theorem packerMatchesPack : Obligations.PackerMatchesPack := by
  intro s cs hs _ hroom
  obtain ⟨u, hu, hacc⟩ := execAll_packCommands cs (accumulated_nil hs) (by simpa using hroom)
  rw [List.nil_append] at hacc
  have hcount := frameCount_of_accumulated hacc
  have hle := packedCount_le hroom
  refine ⟨u.finished.completed, ?_, finished_holds_pack hacc, ?_, ?_⟩
  · rw [execAll_append, hu, andThen_next, execAll, exec_packFinish (partialFits_of_accumulated hacc hroom)]
    rfl
  · rw [State.completed_flen, State.finished, hcount, BitVec.toNat_ofNat]; omega
  · rw [State.completed_result, State.finished, hcount, BitVec.toNat_ofNat]; omega

end Sys2Proof.Machine
end

section
/-! SUPPORT. UNPACK.START and UNPACK.BITS case by case, and what they leave unchanged (spec/40_bit_packer.md R108, R109;
O36, O37, O39). -/

namespace Sys2Proof.Machine

/-- UNPACK.START with an empty frame buffer (R108). -/
theorem exec_unpackStart_empty {s : State} (h : s.flen = 0#9) :
    exec .unpackStart s = .next (s.raised .emptyInput) := if_pos h

/-- UNPACK.START where FBUF[0] is written and the frame is shorter than its count says (R108). -/
theorem exec_unpackStart_short {s : State} {n : Byte} (hne : s.flen ≠ 0#9) (hread : s.fbuf.read 0 = some n)
    (hshort : s.flen.toNat < n.toNat + 1) : exec .unpackStart s = .next (s.raised .inputTooShort) := by
  have hn : fbufRead s 0 = .ok n := (fbufRead_ok_iff s 0 n).2 ⟨by decide, hread⟩
  simp only [exec, execUnpackStart, if_neg hne, hn, if_pos hshort, raiseError_eq]

/-- UNPACK.START where the frame holds the bytes it counts (R108). -/
theorem exec_unpackStart_ok {s : State} {n : Byte} (hne : s.flen ≠ 0#9) (hread : s.fbuf.read 0 = some n)
    (hlong : n.toNat + 1 ≤ s.flen.toNat) : exec .unpackStart s =
      .next { s with un := n, uptr := 0#11, result := BitVec.ofNat 32 n.toNat, last := 0#3 } := by
  have hn : fbufRead s 0 = .ok n := (fbufRead_ok_iff s 0 n).2 ⟨by decide, hread⟩
  simp only [exec, execUnpackStart, if_neg hne, hn, if_neg (Nat.not_lt_of_le hlong), setWidth_eq_ofNat, complete_ok]
  rfl

/-- UNPACK.START where FBUF[0] is unwritten (R108). -/
theorem exec_unpackStart_unwritten {s : State} (hne : s.flen ≠ 0#9) (hread : s.fbuf.read 0 = none) :
    exec .unpackStart s = .fault (.unwrittenByte 0) := by
  have hn : fbufRead s 0 = .error (.unwrittenByte 0) :=
    (fbufRead_error_iff s 0 _).2 (.inl ⟨by decide, hread, rfl⟩)
  simp only [exec, execUnpackStart, if_neg hne, hn]

/-- Settles O36: the exclusive cases of UNPACK.START. -/
theorem unpackStartLatchesCount : Obligations.UnpackStartLatchesCount :=
  ⟨rfl, fun _ => ⟨exec_unpackStart_empty, fun _ hne hread =>
    ⟨exec_unpackStart_short hne hread, exec_unpackStart_ok hne hread⟩, exec_unpackStart_unwritten⟩⟩

/-- The bits gathered are those of the frame in their order, from bytes that are written, and zero above (R109). -/
theorem gatherBits_ok {s : State} {p k : Nat} {r : Word} (hk : k ≤ 32) (h : gatherBits s p k = .ok r) :
    (∀ j, j < k → ∃ b, s.fbuf.read (1 + (p + j) / 8) = some b ∧ r.getLsbD j = b.getLsbD ((p + j) % 8)) ∧
    ∀ j, k ≤ j → r.getLsbD j = false := by
  induction k generalizing r with
  | zero => cases h; exact ⟨nofun, fun j _ => BitVec.getLsbD_zero⟩
  | succ k ih =>
    obtain ⟨r', hr, h⟩ := bind_ok h
    obtain ⟨b, hb, h⟩ := bind_ok h
    cases h
    obtain ⟨-, hread⟩ := (fbufRead_ok_iff _ _ _).1 hb
    obtain ⟨hbits, hzero⟩ := ih (by omega) hr
    refine ⟨fun j hj => ?_, fun j hj => ?_⟩
    · rw [BitVec.getLsbD_or, getLsbD_ofBool_shift _ _ (by omega)]
      obtain hlt | rfl := Nat.lt_or_eq_of_le (Nat.le_of_lt_succ hj)
      · obtain ⟨c, hc, hbit⟩ := hbits j hlt
        exact ⟨c, hc, by simp [hbit, hlt.ne]⟩
      · exact ⟨b, hread, by simp [hzero j le_rfl, frameBit, Config.group]⟩
    · rw [BitVec.getLsbD_or, hzero j (by omega), getLsbD_ofBool_shift_of_ne _ (by omega), Bool.or_false]

/-- Gathering bits of written bytes inside the frame buffer does not fault (R109). -/
theorem gatherBits_served {s : State} {p k : Nat} (hend : p + k ≤ 2040)
    (h : ∀ j, j < k → ∃ b, s.fbuf.read (1 + (p + j) / 8) = some b) : ∃ r, gatherBits s p k = .ok r := by
  cases hg : gatherBits s p k with
  | ok r => exact ⟨r, rfl⟩
  | error f =>
    obtain ⟨j, hj, hf⟩ := gatherBits_error s p k f hg
    obtain ⟨b, hb⟩ := h j hj
    have hi : 1 + (p + j) / 8 < 256 := by omega
    cases hf.symm.trans ((fbufRead_ok_iff s _ b).2 ⟨hi, hb⟩)

/-- UNPACK.BITS past the end of the frame (R109). -/
theorem exec_unpackBits_underrun {k : Nat} {s : State} (hk : 1 ≤ k) (h : 8 * s.un.toNat < s.uptr.toNat + k) :
    exec (.unpackBits k) s = .next (s.raised .unpackUnderrun) := by
  have hrem : k > s.urem := by rw [State.urem]; omega
  exact if_pos hrem

/-- UNPACK.BITS within the frame, on the bits it gathers (R109). -/
theorem exec_unpackBits {k : Nat} {s : State} {r : Word} (h : s.uptr.toNat + k ≤ 8 * s.un.toNat)
    (hr : gatherBits s s.uptr.toNat k = .ok r) : exec (.unpackBits k) s =
      .next { s with result := r, uptr := BitVec.ofNat 11 (s.uptr.toNat + k), last := 0#3 } := by
  have hrem : ¬ k > s.urem := by rw [State.urem]; omega
  have huptr : s.uptr + BitVec.ofNat 11 k = BitVec.ofNat 11 (s.uptr.toNat + k) := by
    rw [← BitVec.ofNat_add_ofNat, BitVec.ofNat_toNat, BitVec.setWidth_eq]
  simp only [exec, execUnpackBits, if_neg hrem, hr, ok_bind, complete_ok, huptr]
  rfl

/-- UNPACK.BITS within the frame where a byte it uses is unwritten (R109). -/
theorem exec_unpackBits_unwritten {k : Nat} {s : State} (hk : k ≤ 8) (h : s.uptr.toNat + k ≤ 8 * s.un.toNat)
    (hnone : ∃ j, j < k ∧ s.fbuf.read (1 + (s.uptr.toNat + j) / 8) = none) :
    ∃ a, s.fbuf.read a = none ∧ exec (.unpackBits k) s = .fault (.unwrittenByte a) := by
  obtain ⟨j, hj, hread⟩ := hnone
  cases hg : gatherBits s s.uptr.toNat k with
  | ok r =>
    obtain ⟨hbits, -⟩ := gatherBits_ok (by omega) hg
    obtain ⟨b, hb, -⟩ := hbits j hj
    cases hread.symm.trans hb
  | error f =>
    have hrem : ¬ k > s.urem := by rw [State.urem]; omega
    have hfault : exec (.unpackBits k) s = .fault f := by
      simp only [exec, execUnpackBits, if_neg hrem, hg, error_bind, complete_error]
    obtain ⟨a, -, rfl, ha⟩ := execUnpackBits_fault hfault
    exact ⟨a, ha, hfault⟩

/-- Settles O37: the underrun, the bits in their places, and the fault on an unwritten byte. -/
theorem unpackBitsReturnsBits : Obligations.UnpackBitsReturnsBits := by
  intro s k hk1 hk
  refine ⟨?_, exec_unpackBits_underrun hk1, fun hfits hwritten => ?_, exec_unpackBits_unwritten hk⟩
  · rw [← km1Of_setWidth hk]; rfl
  · have hun := s.un.isLt
    obtain ⟨r, hr⟩ := gatherBits_served (by omega) hwritten
    obtain ⟨hbits, hzero⟩ := gatherBits_ok (by omega) hr
    refine ⟨r, exec_unpackBits hfits hr, fun j b hj hb => ?_, hzero⟩
    obtain ⟨c, hc, hbit⟩ := hbits j hj
    cases hc.symm.trans hb
    exact hbit

/-- Settles O39: an error changes STATUS alone, a completion the unpacker's registers, RESULT and LAST. -/
theorem unpackerFrame : Obligations.UnpackerFrame := by
  intro s t
  refine ⟨fun h => ?_, fun k h => ?_⟩
  · obtain ⟨e, he, rfl⟩ | ⟨u, ⟨-, n, -, -, rfl⟩, rfl⟩ := execUnpackStart_cases h
    · cases e with
      | emptyInput => exact ⟨rfl, fun _ h0 _ => getLsbD_raised_err s (getLsbD_bit h0), fun _ => rfl⟩
      | inputTooShort => exact ⟨rfl, fun _ _ h1 => getLsbD_raised_err s (getLsbD_bit h1), fun _ => rfl⟩
      | packOverflow | unpackUnderrun | illegalCommand => cases he
    · exact ⟨rfl, fun _ _ _ => rfl, fun _ => rfl⟩
  · obtain ⟨e, he, rfl⟩ | ⟨u, ⟨-, r, -, rfl⟩, rfl⟩ := execUnpackBits_cases h
    · cases e with
      | unpackUnderrun => exact ⟨rfl, fun _ h3 => getLsbD_raised_err s (getLsbD_bit h3), fun _ => rfl⟩
      | emptyInput | inputTooShort | packOverflow | illegalCommand => cases he
    · exact ⟨rfl, fun _ _ => rfl, fun _ => rfl⟩

end Sys2Proof.Machine
end

section
/-! SUPPORT. The unpacker refines `unpack`, and undoes the packer (spec/40_bit_packer.md R102, R110 to R112; O38, O40,
O41). -/

namespace Sys2Proof.Machine

/-- Bit `p` of a frame's data bytes (R102). -/
def dataBit (data : List Byte) (p : Nat) : Bool := (data.getD (p / 8) 0#8).getLsbD (p % 8)

theorem unpack_nil : unpack [] = .error .emptyInput := rfl

theorem unpack_cons_short {c : Byte} {data : List Byte} (h : data.length < c.toNat) :
    unpack (c :: data) = .error .inputTooShort := if_pos (Nat.succ_lt_succ h)

theorem unpack_cons_long {c : Byte} {data : List Byte} (h : c.toNat ≤ data.length) :
    unpack (c :: data) = .ok ((List.range (8 * c.toNat)).map (dataBit data), c.toNat) :=
  if_neg (Nat.not_lt_of_le (Nat.succ_le_succ h))

/-- The unpacker stands at bit `p` of a frame of `n` bytes, the first of `data`, which the frame buffer holds
(R26, R27). -/
structure State.UnpackingAt (data : List Byte) (n p : Nat) (s : State) : Prop where
  un : s.un.toNat = n
  uptr : s.uptr.toNat = p
  supplied : n ≤ data.length
  data : s.fbuf.holds 1 data

/-- A byte of the frame's data, read from the frame buffer (R109). -/
theorem read_of_unpackingAt {data : List Byte} {n p : Nat} {s : State} (h : s.UnpackingAt data n p) {q : Nat}
    (hq : q < 8 * n) : s.fbuf.read (1 + q / 8) = some (data.getD (q / 8) 0#8) := by
  have hlen : q / 8 < data.length := by have := h.supplied; omega
  rw [h.data _ hlen, List.getD_eq_getElem?_getD, List.getElem?_eq_getElem hlen, Option.getD_some]

/-- UNPACK.BITS within the frame returns the next bits of the data and moves past them (R110). -/
theorem exec_unpackBits_returns {data : List Byte} {n p k : Nat} {s : State} (h : s.UnpackingAt data n p) (hk : k ≤ 8)
    (hfits : p + k ≤ 8 * n) : ∃ t, exec (.unpackBits k) s = .next t ∧ t.UnpackingAt data n (p + k) ∧ t.last = 0#3 ∧
      ∀ j, j < k → t.result.getLsbD j = dataBit data (p + j) := by
  have hn : n < 256 := h.un ▸ s.un.isLt
  have hread : ∀ j, j < k → s.fbuf.read (1 + (p + j) / 8) = some (data.getD ((p + j) / 8) 0#8) :=
    fun j hj => read_of_unpackingAt h (by omega)
  obtain ⟨r, hr⟩ := gatherBits_served (by omega) fun j hj => ⟨_, hread j hj⟩
  obtain ⟨hbits, -⟩ := gatherBits_ok (by omega) hr
  rw [← h.uptr] at hr
  have hroom : s.uptr.toNat + k ≤ 8 * s.un.toNat := by rw [h.uptr, h.un]; exact hfits
  refine ⟨_, exec_unpackBits hroom hr, ⟨h.un, ?_, h.supplied, h.data⟩, rfl, fun j hj => ?_⟩
  · rw [h.uptr, BitVec.toNat_ofNat]; omega
  · obtain ⟨b, hb, hbit⟩ := hbits j hj
    cases hb.symm.trans (hread j hj)
    exact hbit

/-- UNPACK.BITS in any split moves past the bits returned (R110). -/
theorem execAll_unpackBits {data : List Byte} {n p : Nat} (ks : List Nat) {s : State} (h : s.UnpackingAt data n p)
    (hks : ∀ x ∈ ks, x ≤ 8) (hfits : p + ks.sum ≤ 8 * n) :
    ∃ t, execAll (ks.map .unpackBits) s = .next t ∧ t.UnpackingAt data n (p + ks.sum) := by
  induction ks generalizing p s with
  | nil => exact ⟨s, rfl, h⟩
  | cons k ks ih =>
    obtain ⟨hk, hrest⟩ := List.forall_mem_cons.1 hks
    rw [List.sum_cons, ← Nat.add_assoc] at hfits ⊢
    obtain ⟨u, hu, hat, -, -⟩ := exec_unpackBits_returns h hk (by omega)
    obtain ⟨t, ht, hall⟩ := ih hat hrest hfits
    refine ⟨t, ?_, hall⟩
    rw [List.map_cons, execAll, hu, andThen_next, ht]

/-- A frame in the buffer: its first byte, and the rest from the next index on. -/
theorem Memory.holds_cons {m : Memory} {i : Nat} {b : Byte} {bs : List Byte} (h : m.holds i (b :: bs)) :
    m.read i = some b ∧ m.holds (i + 1) bs :=
  ⟨h 0 (Nat.zero_lt_succ _), fun j hj => by
    rw [Nat.add_assoc, Nat.add_comm 1 j]; exact h (j + 1) (Nat.succ_lt_succ hj)⟩

/-- FLEN counts a frame that has a count byte. -/
theorem flen_ne_zero {c : Byte} {data : List Byte} {s : State} (h : (c :: data).length = s.flen.toNat) :
    s.flen ≠ 0#9 := fun h0 => by rw [h0] at h; cases h

/-- UNPACK.START on a frame that holds the bytes it counts (R110). -/
theorem exec_unpackStart_returns {c : Byte} {data : List Byte} {s : State} (hlen : (c :: data).length = s.flen.toNat)
    (hf : s.fbuf.holds 0 (c :: data)) (hc : c.toNat ≤ data.length) :
    ∃ t, exec .unpackStart s = .next t ∧ t.UnpackingAt data c.toNat 0 ∧ t.result.toNat = c.toNat ∧ t.last = 0#3 := by
  obtain ⟨hcount, hdata⟩ := Memory.holds_cons hf
  have hne := flen_ne_zero hlen
  rw [List.length_cons] at hlen
  have hn := c.isLt
  refine ⟨_, exec_unpackStart_ok hne hcount (by omega), ⟨rfl, rfl, hc, hdata⟩, ?_, rfl⟩
  rw [BitVec.toNat_ofNat]
  omega

/-- UNPACK.BITS in any split, and one more: the bits it returns, or the underrun past the frame's end (R110). -/
theorem execAll_unpackBits_then {data : List Byte} {n k : Nat} (ks : List Nat) {s : State} (h : s.UnpackingAt data n 0)
    (hks : ∀ x ∈ ks, x ≤ 8) (hk1 : 1 ≤ k) (hk : k ≤ 8) (hsum : ks.sum ≤ 8 * n) :
    ∃ t, execAll (ks.map .unpackBits ++ [.unpackBits k]) s = .next t ∧
      (ks.sum + k ≤ 8 * n → t.last = 0#3 ∧ ∀ j, j < k → t.result.getLsbD j = dataBit data (ks.sum + j)) ∧
      (8 * n < ks.sum + k → t.last = 4#3) := by
  obtain ⟨u, hu, hat⟩ := execAll_unpackBits ks h hks (by rwa [Nat.zero_add])
  rw [Nat.zero_add] at hat
  rw [execAll_append, hu, andThen_next]
  by_cases hfits : ks.sum + k ≤ 8 * n
  · obtain ⟨t, ht, -, hlast, hbits⟩ := exec_unpackBits_returns hat hk hfits
    exact ⟨t, by rw [execAll, ht]; rfl, fun _ => ⟨hlast, hbits⟩, fun hover => absurd hfits hover.not_ge⟩
  · have hunder := exec_unpackBits_underrun (s := u) hk1 (by rw [hat.un, hat.uptr]; exact Nat.lt_of_not_le hfits)
    exact ⟨u.raised .unpackUnderrun, by rw [execAll, hunder]; rfl, fun h => absurd h hfits, fun _ => rfl⟩

/-- Settles O38: `unpack` of the frame decides which case of UNPACK.START applies, and the bits UNPACK.BITS returns are
those of the frame's data. -/
theorem unpackerMatchesUnpack : Obligations.UnpackerMatchesUnpack := by
  intro s f hlen hf
  cases f with
  | nil =>
    have hempty : s.flen = 0#9 := BitVec.eq_of_toNat_eq hlen.symm
    exact ⟨fun _ => exec_unpackStart_empty hempty, nofun, nofun⟩
  | cons c data =>
    obtain ⟨hcount, -⟩ := Memory.holds_cons hf
    have hne := flen_ne_zero hlen
    by_cases hc : c.toNat ≤ data.length
    · rw [unpack_cons_long hc]
      refine ⟨nofun, nofun, fun bits n hok => ?_⟩
      obtain ⟨rfl, rfl⟩ := Prod.mk.inj (Except.ok.inj hok)
      obtain ⟨u, hu, hat, hresult, hlast⟩ := exec_unpackStart_returns hlen hf hc
      have hrem : u.urem = 8 * c.toNat := by rw [State.urem, hat.un, hat.uptr, Nat.sub_zero]
      refine ⟨⟨u, hu, hresult, hlast, hrem⟩, fun ks k hks hk1 hk hsum => ?_⟩
      obtain ⟨t, ht, hbits, hunder⟩ := execAll_unpackBits_then ks hat (fun x hx => (hks x hx).2) hk1 hk hsum
      refine ⟨t, ?_, fun hfits => ?_, hunder⟩
      · rw [List.cons_append, execAll, hu, andThen_next, ht]
      · obtain ⟨hlast, hbits⟩ := hbits hfits
        refine ⟨hlast, fun j hj => ?_⟩
        rw [List.getElem?_map, List.getElem?_range (by omega), hbits j hj, Option.map_some]
    · rw [unpack_cons_short (Nat.lt_of_not_le hc)]
      refine ⟨nofun, fun _ => exec_unpackStart_short hne hcount ?_, nofun⟩
      rw [← hlen, List.length_cons]
      omega

/-- Reading a sequence of flags up to place `n` gives the flags, then false. -/
theorem map_getD_range {bits : List Bool} {n : Nat} (h : bits.length ≤ n) :
    (List.range n).map (fun p => bits.getD p false) = bits ++ List.replicate (n - bits.length) false := by
  refine List.ext_getElem (by simp [h]) fun p _ _ => ?_
  by_cases hp : p < bits.length
  · simp [hp]
  · simp [hp, Nat.le_of_not_lt hp]

/-- Bit `p` of the data `pack` makes is flag `p`, or false past the last flag (R100). -/
theorem dataBit_packedBytes {bits : List Bool} {p : Nat} (hp : p < 8 * packedCount bits) :
    dataBit ((List.range (packedCount bits)).map (packedByte bits)) p = bits.getD p false := by
  have hbyte : p / 8 < packedCount bits := by omega
  rw [dataBit, List.getD_eq_getElem?_getD, List.getElem?_map, List.getElem?_range hbyte, Option.map_some,
    Option.getD_some, getLsbD_packedByte _ _ (Nat.mod_lt p (by decide)), Nat.div_add_mod]

/-- Settles O40: `unpack` reads the bits of the bytes that `pack` counts and makes. -/
theorem unpackOfPack : Obligations.UnpackOfPack := by
  intro bits hlen
  have hcount : (BitVec.ofNat 8 (packedCount bits)).toNat = packedCount bits := by
    have := packedCount_le hlen
    rw [BitVec.toNat_ofNat]; omega
  have hroom : bits.length ≤ 8 * packedCount bits := by rw [packedCount]; omega
  rw [pack_eq, unpack_cons_long (by simp [hcount]), hcount, ← map_getD_range hroom]
  congr 2
  exact List.map_congr_left fun p hp => dataBit_packedBytes (List.mem_range.1 hp)

/-- Settles O41: the packer leaves `pack` of the flags, and the unpacker returns `unpack` of that. -/
theorem packThenUnpackOnCore : Obligations.PackThenUnpackOnCore := by
  intro s cs ks k hs hcs hroom hks hk1 hk hfits
  obtain ⟨u, hu, hholds, hflen, -⟩ := packerMatchesPack s cs hs hcs hroom
  have hlen : (pack (chunkFlags cs)).length = u.flen.toNat := (length_pack _).trans hflen.symm
  obtain ⟨-, -, hunpack⟩ := unpackerMatchesUnpack u _ hlen hholds
  obtain ⟨-, hrun⟩ := hunpack _ _ (unpackOfPack _ hroom)
  obtain ⟨t, ht, hbits, -⟩ := hrun ks k hks hk1 hk (by omega)
  obtain ⟨-, hbits⟩ := hbits hfits
  refine ⟨t, ?_, fun j hj => ?_⟩
  · have hsplit (xs ys : List Instr) : xs ++ [Instr.packFinish, Instr.unpackStart] ++ ys ++ [Instr.unpackBits k] =
        (xs ++ [Instr.packFinish]) ++ (Instr.unpackStart :: ys ++ [Instr.unpackBits k]) := by simp
    rw [hsplit, execAll_append, hu, andThen_next, ht]
  · have hbit := hbits j hj
    rw [← map_getD_range (by rw [packedCount]; omega), List.getElem?_map, List.getElem?_range (by omega)] at hbit
    exact (Option.some.inj hbit).symm

end Sys2Proof.Machine
end

section
/-! SUPPORT. The CRC's shifts as linear maps, and the lookup table (spec/41_crc16.md R141 to R143; O43, O42). A shift
moves bit 0 to bit 15, so the bits shifted out can be read off the top of the result. -/

namespace Sys2Proof.Machine

/-- The shift right clears bit 15 and the polynomial's bit 15 is set (R141). -/
theorem getLsbD_crcShift_top (v : BitVec 16) : (crcShift v).getLsbD 15 = v.getLsbD 0 := by
  have htop : (v >>> 1).getLsbD 15 = false := by
    rw [BitVec.getLsbD_ushiftRight]
    exact BitVec.getLsbD_of_ge v (1 + 15) (by decide)
  unfold crcShift
  split
  case isTrue h => rw [BitVec.getLsbD_xor, htop, h]; rfl
  case isFalse h => rw [htop, Bool.eq_false_of_not_eq_true h]

theorem crcShift_of_even {v : BitVec 16} (h : v.getLsbD 0 = false) : crcShift v = v >>> 1 :=
  if_neg (Bool.eq_false_iff.1 h)

/-- The feedback is taken once for each operand whose bit 0 is set, and taken twice it cancels. -/
theorem crcShift_xor (v w : BitVec 16) : crcShift (v ^^^ w) = crcShift v ^^^ crcShift w := by
  simp only [crcShift, BitVec.getLsbD_xor, BitVec.ushiftRight_xor_distrib]
  cases v.getLsbD 0 <;> cases w.getLsbD 0
  case true.true =>
    calc v >>> 1 ^^^ w >>> 1
        = v >>> 1 ^^^ w >>> 1 ^^^ (Config.crcPoly ^^^ Config.crcPoly) := by rw [BitVec.xor_self, BitVec.xor_zero]
      _ = (v >>> 1 ^^^ Config.crcPoly) ^^^ (w >>> 1 ^^^ Config.crcPoly) := by ac_rfl
  all_goals simp only [Bool.false_eq_true, if_true, if_false, bne]; ac_rfl

theorem crcShifts_xor (n : Nat) (v w : BitVec 16) : crcShifts n (v ^^^ w) = crcShifts n v ^^^ crcShifts n w := by
  induction n generalizing v w with
  | zero => rfl
  | succ n ih => rw [crcShifts, crcShift_xor, ih]; rfl

/-- Zero bits are shifted out without feedback. -/
theorem crcShifts_of_low_zero {n : Nat} {v : BitVec 16} (h : ∀ i < n, v.getLsbD i = false) :
    crcShifts n v = v >>> n := by
  induction n generalizing v with
  | zero => rfl
  | succ n ih =>
    rw [crcShifts, crcShift_of_even (h 0 n.succ_pos), ih, ← BitVec.shiftRight_add, Nat.add_comm]
    intro i hi
    rw [BitVec.getLsbD_ushiftRight]
    exact h (1 + i) (by omega)

/-- Where `n` shifts leave the high `n` bits zero, the `n` bits shifted out were zero. -/
theorem low_zero_of_crcShifts {n : Nat} (hn : n ≤ 16) {v : BitVec 16}
    (h : ∀ i, 16 - n ≤ i → (crcShifts n v).getLsbD i = false) : ∀ i < n, v.getLsbD i = false := by
  induction n generalizing v with
  | zero => exact nofun
  | succ n ih =>
    have hlow : ∀ i < n, (crcShift v).getLsbD i = false := ih (by omega) fun i hi => h i (by omega)
    have heven : v.getLsbD 0 = false := by
      have htop := h (15 - n) (by omega)
      rwa [crcShifts, crcShifts_of_low_zero hlow, BitVec.getLsbD_ushiftRight, Nat.add_sub_cancel' (by omega),
        getLsbD_crcShift_top] at htop
    intro i hi
    cases i with
    | zero => exact heven
    | succ i =>
      have hbit := hlow i (by omega)
      rwa [crcShift_of_even heven, BitVec.getLsbD_ushiftRight, Nat.add_comm] at hbit

/-- The bits shifted out of a value that goes to 0 were zero, and so were the bits that stayed. -/
theorem eq_zero_of_crcShifts {n : Nat} (hn : n ≤ 16) {v : BitVec 16} (h : crcShifts n v = 0#16) : v = 0#16 := by
  have hlow : ∀ i < n, v.getLsbD i = false := low_zero_of_crcShifts hn fun i _ => by rw [h, BitVec.getLsbD_zero]
  rw [crcShifts_of_low_zero hlow] at h
  refine BitVec.eq_of_getLsbD_eq fun i _ => ?_
  rw [BitVec.getLsbD_zero]
  by_cases hi : i < n
  · exact hlow i hi
  · have hbit : (v >>> n).getLsbD (i - n) = false := by rw [h, BitVec.getLsbD_zero]
    rwa [BitVec.getLsbD_ushiftRight, Nat.add_sub_cancel' (Nat.le_of_not_lt hi)] at hbit

theorem crcShifts_injective {n : Nat} (hn : n ≤ 16) : Function.Injective (crcShifts n) := fun v w h =>
  BitVec.xor_eq_zero_iff.1 <| eq_zero_of_crcShifts hn <| by rw [crcShifts_xor, h, BitVec.xor_self]

/-- A value is its high byte, shifted into place, and its low byte. -/
theorem eq_high_xor_low (v : BitVec 16) :
    v = (v.extractLsb' 8 8).setWidth 16 <<< 8 ^^^ (v.extractLsb' 0 8).setWidth 16 := by
  refine BitVec.eq_of_getLsbD_eq fun i hi => ?_
  by_cases h : i < 8
  · simp [h, hi]
  · have hlt : i - 8 < 8 := by omega
    have hplace : 8 + (i - 8) = i := by omega
    simp [h, hi, hlt, hplace]

/-- Eight shifts bring a high byte down, without feedback. -/
theorem crcShifts_high (b : Byte) : crcShifts 8 (b.setWidth 16 <<< 8) = b.setWidth 16 := by
  have hb := b.isLt
  rw [crcShifts_of_low_zero fun i hi => by simp [hi]]
  refine BitVec.eq_of_toNat_eq ?_
  simp only [BitVec.toNat_ushiftRight, BitVec.toNat_shiftLeft, BitVec.toNat_setWidth, Nat.shiftLeft_eq,
    Nat.shiftRight_eq_div_pow]
  omega

/-- Settles O43: the eight shifts bring the high byte down and make of the low byte the table's entry. -/
theorem crcTableFormIsBitSerial : Obligations.CrcTableFormIsBitSerial := fun v d =>
  calc crcNext v d
      = (v.extractLsb' 8 8).setWidth 16 ^^^ crcShifts 8 ((v.extractLsb' 0 8 ^^^ d).setWidth 16) := rfl
    _ = crcShifts 8 ((v.extractLsb' 8 8).setWidth 16 <<< 8 ^^^ (v.extractLsb' 0 8).setWidth 16 ^^^ d.setWidth 16) := by
        rw [BitVec.xor_assoc, ← BitVec.setWidth_xor, crcShifts_xor, crcShifts_high]
    _ = crcNextSerial v d := by rw [← eq_high_xor_low]; rfl

theorem crcTable_xor (a b : Byte) : crcTable (a ^^^ b) = crcTable a ^^^ crcTable b := by
  rw [crcTable, BitVec.setWidth_xor, crcShifts_xor]; rfl

@[simp] theorem crcTable_zero : crcTable 0#8 = 0#16 := by decide

/-- The high byte of an entry holds what was shifted out, so it is zero for 0 alone. -/
theorem eq_zero_of_crcTable_high {c : Byte} (h : crcTable c >>> 8 = 0#16) : c = 0#8 := by
  have hlow : ∀ i < 8, (c.setWidth 16).getLsbD i = false := low_zero_of_crcShifts (by decide) fun j hj => by
    have hbit : (crcTable c >>> 8).getLsbD (j - 8) = false := by rw [h, BitVec.getLsbD_zero]
    rwa [BitVec.getLsbD_ushiftRight, Nat.add_sub_cancel' hj] at hbit
  refine BitVec.eq_of_getLsbD_eq fun i hi => ?_
  rw [BitVec.getLsbD_zero]
  have hbit := hlow i hi
  rwa [BitVec.getLsbD_setWidth, decide_eq_true (show i < 16 by omega), Bool.true_and] at hbit

/-- The 256 printed entries, each evaluated from the polynomial (R142). -/
theorem printedTable_eq_map : printedTable = (List.finRange 256).map (fun c => crcTable (.ofFin c)) := by
  decide +kernel

theorem getElem?_printedTable (c : Byte) : printedTable[c.toNat]? = some (crcTable c) := by
  have hlen : c.toNat < (List.finRange 256).length := by rw [List.length_finRange]; exact c.isLt
  rw [printedTable_eq_map, List.getElem?_map, List.getElem?_eq_getElem hlen, List.getElem_finRange]
  rfl

/-- Settles O42: the entries by evaluation; that the high bytes are distinct by linearity, from the entry of
`a ^^^ b`. -/
theorem crcTableAsPrinted : Obligations.CrcTableAsPrinted := by
  refine ⟨getElem?_printedTable, crcTable_xor, fun c hc => ?_, fun a b hab => ?_⟩
  · exact eq_zero_of_crcTable_high (by rw [hc]; rfl)
  · refine BitVec.xor_eq_zero_iff.1 (eq_zero_of_crcTable_high ?_)
    rw [crcTable_xor, BitVec.ushiftRight_xor_distrib, hab, BitVec.xor_self]

end Sys2Proof.Machine
end

section
/-! SUPPORT. `computeCRC` as a fold of the register's update, its residue and its detection of one changed byte
(spec/41_crc16.md R140, R149; O47, O48). -/

namespace Sys2Proof.Machine

theorem extractLsb'_low_setWidth (b : Byte) : (b.setWidth 16).extractLsb' 0 8 = b :=
  BitVec.eq_of_getLsbD_eq fun i hi => by simp [hi, hi.trans (show 8 < 16 by decide)]

theorem extractLsb'_high_setWidth (b : Byte) : (b.setWidth 16).extractLsb' 8 8 = 0#8 :=
  BitVec.eq_of_getLsbD_eq fun i hi => by simp [hi]

theorem and_low_byte (v : BitVec 16) : v &&& 0x00FF#16 = (v.extractLsb' 0 8).setWidth 16 := by
  refine BitVec.eq_of_toNat_eq ?_
  have hmask : v.toNat &&& 255 = v.toNat % 256 := Nat.and_two_pow_sub_one_eq_mod v.toNat 8
  rw [BitVec.toNat_and, BitVec.toNat_ofNat, BitVec.toNat_setWidth, BitVec.extractLsb'_toNat, Nat.shiftRight_zero]
  change v.toNat &&& 255 = v.toNat % 256 % 65536
  omega

/-- The index of R140 and R145 is the low byte with the data byte. -/
theorem xor_and_low_byte (v : BitVec 16) (d : Byte) :
    (v ^^^ d.setWidth 16) &&& 0x00FF#16 = (v.extractLsb' 0 8 ^^^ d).setWidth 16 := by
  rw [and_low_byte, BitVec.extractLsb'_xor, extractLsb'_low_setWidth]

/-- `(v >> 8) & 0xFF` is the high byte. -/
theorem shift_and_low_byte (v : BitVec 16) : (v >>> 8) &&& 0x00FF#16 = (v.extractLsb' 8 8).setWidth 16 :=
  (and_low_byte (v >>> 8)).trans rfl

/-- `crcNext` in the words of R140 and R145. -/
theorem crcNext_eq (v : BitVec 16) (d : Byte) : crcNext v d =
    ((v >>> 8) &&& 0x00FF#16) ^^^ crcTable (((v ^^^ d.setWidth 16) &&& 0x00FF#16).setWidth 8) := by
  rw [shift_and_low_byte, xor_and_low_byte, BitVec.setWidth_setWidth_of_le _ (by decide), BitVec.setWidth_eq]; rfl

theorem computeCRC_eq_foldl (data : List Byte) : computeCRC data = data.foldl crcNext Config.crcSeed :=
  congrArg (fun update => data.foldl update Config.crcSeed) (funext₂ fun v d => (crcNext_eq v d).symm)

theorem computeCRC_append (xs ys : List Byte) : computeCRC (xs ++ ys) = ys.foldl crcNext (computeCRC xs) := by
  rw [computeCRC_eq_foldl, computeCRC_eq_foldl, List.foldl_append]

/-- The register's own low byte cancels in the index, so its high byte comes down alone. -/
theorem crcNext_low_byte (v : BitVec 16) : crcNext v (v.extractLsb' 0 8) = (v.extractLsb' 8 8).setWidth 16 := by
  simp [crcNext]

/-- Settles O47: the low byte brings the high byte down, and that byte then cancels too. -/
theorem crcResidueIsZero : Obligations.CrcResidueIsZero := by
  intro data
  have hlast := crcNext_low_byte (((computeCRC data).extractLsb' 8 8).setWidth 16)
  rw [extractLsb'_low_setWidth, extractLsb'_high_setWidth] at hlast
  rw [computeCRC_append, List.foldl_cons, crcNext_low_byte, List.foldl_cons, hlast]
  rfl

/-- The bit-serial form shows that an update keeps different values apart: each step of it is injective. -/
theorem crcNext_left_injective (d : Byte) : Function.Injective fun v => crcNext v d := fun v w h =>
  (BitVec.xor_left_inj (d.setWidth 16)).1 <| crcShifts_injective (n := 8) (by decide) <|
    (crcTableFormIsBitSerial v d).symm.trans <| h.trans (crcTableFormIsBitSerial w d)

/-- It keeps different bytes apart too. -/
theorem crcNext_right_injective (v : BitVec 16) : Function.Injective (crcNext v) := fun a b h => by
  rw [crcTableFormIsBitSerial, crcTableFormIsBitSerial] at h
  have hbyte := (BitVec.xor_right_inj _).1 (crcShifts_injective (n := 8) (by decide) h)
  rw [← extractLsb'_low_setWidth a, hbyte, extractLsb'_low_setWidth]

theorem foldl_crcNext_injective (data : List Byte) : Function.Injective fun v => data.foldl crcNext v := by
  induction data with
  | nil => exact Function.injective_id
  | cons d data ih => exact ih.comp (crcNext_left_injective d)

/-- Settles O48: the registers differ after the changed byte, and equal updates keep them apart. -/
theorem crcDetectsOneByte : Obligations.CrcDetectsOneByte := by
  intro data i b hi hne
  have hsplit : data.take i ++ data[i] :: data.drop (i + 1) = data := by
    rw [List.getElem_cons_drop, List.take_append_drop]
  refine Bool.eq_false_iff.2 fun hcheck => hne ?_
  have hcrc : computeCRC (data.set i b) = computeCRC (data.take i ++ data[i] :: data.drop (i + 1)) :=
    (eq_of_beq hcheck).trans (congrArg computeCRC hsplit.symm)
  rw [List.set_eq_take_append_cons_drop, if_pos hi, computeCRC_append, computeCRC_append] at hcrc
  have hbyte : b = data[i] := crcNext_right_injective _ (foldl_crcNext_injective (data.drop (i + 1)) hcrc)
  rw [List.getElem?_eq_getElem hi, hbyte]

end Sys2Proof.Machine
end

section
/-! SUPPORT. The CRC commands, and the register over a run of commands (spec/41_crc16.md R144 to R148; O44 to O46,
O53). -/

namespace Sys2Proof.Machine

/-- Settles O53: each of the three completes with one update. -/
theorem initCommandsSeed : Obligations.InitCommandsSeed :=
  ⟨rfl, rfl, rfl, fun _ => ⟨rfl, rfl, rfl⟩⟩

/-- Settles O44: the update in the words of R145, its table entry found where R142 prints it. -/
theorem crcByteUpdates : Obligations.CrcByteUpdates := by
  intro s d
  refine ⟨formatC_byte 0x11#8 d, crcTable (s.crc.extractLsb' 0 8 ^^^ d), ?_, ?_⟩
  · rw [xor_and_low_byte, BitVec.toNat_setWidth_of_le (by decide)]
    exact getElem?_printedTable _
  · rw [shift_and_low_byte]; rfl

/-- CRC.CHECK returns the boolean of R147. -/
theorem exec_crcCheck (s : State) :
    exec .crcCheck s = .next { s with result := boolWord (s.crc == s.expect), last := 0#3 } := rfl

/-- Settles O45: the boolean is that of the equality. -/
theorem crcCheckCompares : Obligations.CrcCheckCompares := by
  refine ⟨rfl, fun s => ?_⟩
  simp only [exec_crcCheck, boolWord, beq_iff_eq]

/-- The commands that can raise an error feed nothing to the CRC engine. -/
theorem fedToCrc_of_raises {i : Instr} {s : State} {e : ErrorCode} (h : Raises i s e) : fedToCrc i = none := by
  cases i with
  | crcByte d | ckByte d => exact h.elim
  | packReset | packBits k d | packFinish | unpackStart | unpackBits k => rfl
  | crcInit | crcCheck | lrcInit | lrcByte d | lrcCheck | ckInit | ckFrame => rfl

/-- A command that does not seed the CRC updates it by the byte it feeds, if it feeds one (R146, R190). -/
theorem makes_crc {i : Instr} {s u : State} (h : Makes i s u) (hi : seedsCrc i = false) :
    u.crc = (fedToCrc i).toList.foldl crcNext s.crc := by
  cases i with
  | packBits k d => rw [pushFlags_ok _ _ _ h.2]; rfl
  | packFinish =>
    obtain ⟨v, n, hflush, hpublish⟩ := h
    rw [flushPartial_eq (partialFits_of_flushPartial hflush)] at hflush
    cases hflush
    cases hpublish
    rfl
  | unpackStart => obtain ⟨-, n, -, -, rfl⟩ := h; rfl
  | unpackBits k => obtain ⟨-, r, -, rfl⟩ := h; rfl
  | crcInit | ckInit | ckFrame => cases hi
  | packReset | crcByte d | crcCheck | lrcInit | lrcByte d | lrcCheck | ckByte d => subst h; rfl

theorem exec_crc {i : Instr} {s t : State} (h : exec i s = .next t) (hi : seedsCrc i = false) :
    t.crc = (fedToCrc i).toList.foldl crcNext s.crc := by
  obtain ⟨e, he, rfl⟩ | ⟨u, hu, rfl⟩ := exec_cases h
  · rw [fedToCrc_of_raises he]; rfl
  · exact (State.completed_crc u).trans (makes_crc hu hi)

/-- Over commands that do not seed it, the CRC is updated by the bytes they feed, in order (R148). -/
theorem execAll_crc {is : List Instr} {s t : State} (h : execAll is s = .next t)
    (his : ∀ i ∈ is, seedsCrc i = false) : t.crc = (is.filterMap fedToCrc).foldl crcNext s.crc := by
  induction is generalizing s with
  | nil => cases h; rfl
  | cons i is ih =>
    obtain ⟨hi, his⟩ := List.forall_mem_cons.1 his
    obtain ⟨u, hu, ht⟩ := (andThen_next_iff _ _ _).1 h
    rw [ih ht his, exec_crc hu hi, ← List.foldl_append, List.filterMap_cons]
    cases fedToCrc i <;> rfl

/-- A command that feeds the CRC engine completes in every state (R81, R146, R192). -/
theorem exec_feed_served {i : Instr} (h : (fedToCrc i).isSome = true) (s : State) : ∃ t, exec i s = .next t := by
  cases i with
  | crcByte d | ckByte d => exact ⟨_, rfl⟩
  | packReset | packBits k d | packFinish | unpackStart | unpackBits k => cases h
  | crcInit | crcCheck | lrcInit | lrcByte d | lrcCheck | ckInit | ckFrame => cases h

theorem execAll_feeds_served {is : List Instr} (h : ∀ i ∈ is, (fedToCrc i).isSome = true) (s : State) :
    ∃ t, execAll is s = .next t := by
  induction is generalizing s with
  | nil => exact ⟨s, rfl⟩
  | cons i is ih =>
    obtain ⟨hi, his⟩ := List.forall_mem_cons.1 h
    obtain ⟨u, hu⟩ := exec_feed_served hi s
    obtain ⟨t, ht⟩ := ih his u
    exact ⟨t, (andThen_next_iff _ _ _).2 ⟨u, hu, ht⟩⟩

/-- Settles O46: from each of the three starts the register is the fold of `computeCRC`. -/
theorem crcMatchesComputeCrc : Obligations.CrcMatchesComputeCrc := by
  refine ⟨rfl, fun s is his => ⟨fun t ht => ?_, fun hfeeds => execAll_feeds_served hfeeds _⟩⟩
  have hstart : ∃ r : State, r.crc = Config.crcSeed ∧ execAll is r = .next t := by
    obtain ⟨hseed, h⟩ | h | h := ht
    · exact ⟨s, hseed, h⟩
    · exact ⟨_, rfl, h⟩
    · exact ⟨_, rfl, h⟩
  obtain ⟨r, hseed, hrun⟩ := hstart
  have hcrc : t.crc = computeCRC (is.filterMap fedToCrc) := by
    rw [execAll_crc hrun his, hseed, computeCRC_eq_foldl]
  refine ⟨hcrc, ?_⟩
  rw [exec_crcCheck, hcrc]
  rfl

end Sys2Proof.Machine
end

section
/-! SUPPORT. What the checksum commands keep (spec/41_crc16.md R144 to R147, spec/42_lrc.md R171 to R174,
spec/43_controller.md R191 to R193; O58). -/

namespace Sys2Proof.Machine

/-- The errors are the packer's and the unpacker's (spec/60_exceptions.md R214). -/
theorem isBitCommand_of_raises {i : Instr} {s : State} {e : ErrorCode} (h : Raises i s e) : isBitCommand i = true := by
  cases i with
  | packReset | packBits k d | packFinish | unpackStart | unpackBits k => rfl
  | crcInit | crcByte d | crcCheck | lrcInit | lrcByte d | lrcCheck | ckInit | ckByte d | ckFrame => exact h.elim

/-- A checksum command that answers a next state has completed (R81). -/
theorem exec_checksum {i : Instr} {s t : State} (hi : isBitCommand i = false) (h : exec i s = .next t) :
    ∃ u, Makes i s u ∧ t = u.completed := by
  obtain ⟨e, he, -⟩ | hmade := exec_cases h
  · exact absurd (isBitCommand_of_raises he) (by rw [hi]; decide)
  · exact hmade

/-- The registers the checksum part writes (R190). -/
theorem makes_checksum_frame {i : Instr} {s u : State} (hi : isBitCommand i = false) (h : Makes i s u) :
    u = { s with crc := u.crc, lsum := u.lsum, result := u.result } := by
  cases i with
  | packReset | packBits k d | packFinish | unpackStart | unpackBits k => cases hi
  | ckFrame => rw [feedFrame_ok _ _ _ _ h]; rfl
  | crcInit | crcByte d | crcCheck | lrcInit | lrcByte d | lrcCheck | ckInit | ckByte d => subst h; rfl

/-- The CRC engine's commands and the LRC's check keep LSUM. -/
theorem makes_lsum_of_crc {i : Instr} {s u : State} (h : Makes i s u) (hi : partOf i = .crc ∨ i = .lrcCheck) :
    u.lsum = s.lsum := by
  cases i with
  | crcInit | crcByte d | crcCheck | lrcCheck => subst h; rfl
  | packReset | packBits k d | packFinish | unpackStart | unpackBits k => simp [partOf] at hi
  | lrcInit | lrcByte d | ckInit | ckByte d | ckFrame => simp [partOf] at hi

/-- The LRC engine's commands and the CRC's check do not seed the CRC and feed it nothing. -/
theorem not_seeds_and_fed_none {i : Instr} (hi : partOf i = .lrc ∨ i = .crcCheck) :
    seedsCrc i = false ∧ fedToCrc i = none := by
  cases i with
  | lrcInit | lrcByte d | lrcCheck | crcCheck => exact ⟨rfl, rfl⟩
  | packReset | packBits k d | packFinish | unpackStart | unpackBits k => simp [partOf] at hi
  | crcInit | crcByte d | ckInit | ckByte d | ckFrame => simp [partOf] at hi

theorem makes_crc_of_lrc {i : Instr} {s u : State} (h : Makes i s u) (hi : partOf i = .lrc ∨ i = .crcCheck) :
    u.crc = s.crc := by
  obtain ⟨hseeds, hfed⟩ := not_seeds_and_fed_none hi
  rw [makes_crc h hseeds, hfed]; rfl

/-- The checks are the commands of the checksum part that return a value (R31). -/
theorem not_returns_of_checksum {i : Instr} (hi : isBitCommand i = false) (hcrc : i ≠ .crcCheck)
    (hlrc : i ≠ .lrcCheck) : ¬ Returns i := by
  rintro (rfl | rfl | ⟨k, rfl⟩ | rfl | rfl)
  · cases hi
  · cases hi
  · cases hi
  · exact hcrc rfl
  · exact hlrc rfl

/-- Settles O58: a checksum command completes, and the state its rule makes keeps all but its own registers. -/
theorem checksumFrame : Obligations.ChecksumFrame := by
  intro i s t hi h
  obtain ⟨u, hu, rfl⟩ := exec_checksum hi h
  have hframe := makes_checksum_frame hi hu
  simp only [State.completed_fbuf, State.completed_crc, State.completed_lsum, State.completed_result]
  refine ⟨congrArg State.completed hframe, fun a => by rw [hframe], fun hp => makes_lsum_of_crc hu (.inl hp),
    fun hp => makes_crc_of_lrc hu (.inl hp), ?_,
    fun hcrc hlrc => makes_result hu (not_returns_of_checksum hi hcrc hlrc)⟩
  rintro (rfl | rfl)
  · exact ⟨makes_crc_of_lrc hu (.inr rfl), makes_lsum_of_crc hu (.inl rfl)⟩
  · exact ⟨makes_crc_of_lrc hu (.inl rfl), makes_lsum_of_crc hu (.inr rfl)⟩

end Sys2Proof.Machine
end

section
/-! SUPPORT. `sumMod256` as the sum of the bytes as 8-bit numbers, and so `computeLRC` as its negation
(spec/42_lrc.md R170, R176; O52). -/

namespace Sys2Proof.Machine

/-- The sum kept modulo 256 is an 8-bit register's (R172). -/
theorem foldl_add_mod_256 (data : List Byte) (v : Byte) :
    data.foldl (fun sum b => (sum + b.toNat) % 256) v.toNat = (v + data.sum).toNat := by
  induction data generalizing v with
  | nil => rw [List.foldl_nil, List.sum_nil, add_zero]
  | cons d data ih =>
    have hstep : (v.toNat + d.toNat) % 256 = (v + d).toNat := (BitVec.toNat_add v d).symm
    rw [List.foldl_cons, hstep, ih, List.sum_cons, add_assoc]

theorem sumMod256_eq_sum (data : List Byte) : sumMod256 data = data.sum.toNat :=
  (foldl_add_mod_256 data 0#8).trans (congrArg BitVec.toNat (zero_add data.sum))

/-- LRCV is the 8-bit negation of the sum (R29, R174). -/
theorem lrcValue_eq_neg (sum : Byte) : lrcValue sum = -sum := (BitVec.neg_eq_not_add sum).symm

theorem computeLRC_eq_lrcValue (data : List Byte) : computeLRC data = lrcValue data.sum := by
  rw [computeLRC, sumMod256_eq_sum, ← lrcValue_toNat, BitVec.ofNat_toNat, BitVec.setWidth_eq]

theorem computeLRC_eq_neg_sum (data : List Byte) : computeLRC data = -data.sum :=
  (computeLRC_eq_lrcValue data).trans (lrcValue_eq_neg data.sum)

theorem computeLRC_eq_iff (data data' : List Byte) : computeLRC data = computeLRC data' ↔ data.sum = data'.sum := by
  rw [computeLRC_eq_neg_sum, computeLRC_eq_neg_sum, neg_inj]

/-- A byte changed changes the sum by the difference of the two bytes. -/
theorem sum_set_byte {data : List Byte} {i : Nat} {a : Byte} (ha : data[i]? = some a) (b : Byte) :
    (data.set i b).sum = data.sum + (-a + b) := by
  obtain ⟨hi, rfl⟩ := List.getElem?_eq_some_iff.1 ha
  rw [List.sum_set', dif_pos hi]

/-- Settles O52: each clause is one about the sum, which a change of one byte moves by the difference and an order
does not move. -/
theorem lrcProperties : Obligations.LrcProperties := by
  refine ⟨fun data => ?_, fun data i b hi hne => ?_, fun data i j a b a' b' hij ha hb hsum => ?_,
    fun data data' hperm => (computeLRC_eq_iff _ _).2 hperm.sum_eq.symm⟩
  · rw [sumMod256_eq_sum, computeLRC_eq_neg_sum, List.sum_append, List.sum_singleton, add_neg_cancel]
    rfl
  · refine Bool.eq_false_iff.2 fun hcheck => hne ?_
    have hold : data[i]? = some data[i] := List.getElem?_eq_getElem hi
    have hsum := (computeLRC_eq_iff _ _).1 (eq_of_beq hcheck)
    rw [sum_set_byte hold, add_eq_left, neg_add_eq_zero] at hsum
    rw [hold, hsum]
  · have hb' : (data.set i a')[j]? = some b := by rw [List.getElem?_set_ne hij, hb]
    rw [computeLRC_eq_iff, sum_set_byte hb', sum_set_byte ha]
    linear_combination hsum

end Sys2Proof.Machine
end

section
/-! SUPPORT. The LRC commands, and LSUM over a run of commands (spec/42_lrc.md R171 to R175; O49 to O51). -/

namespace Sys2Proof.Machine

/-- Settles O49: the register's own addition drops the carry. -/
theorem lrcByteAdds : Obligations.LrcByteAdds := by
  intro s d
  have hsum : BitVec.ofNat 8 ((s.lsum.toNat + d.toNat) % 256) = s.lsum + d := by
    refine BitVec.eq_of_toNat_eq ?_
    rw [BitVec.toNat_ofNat, BitVec.toNat_add, Nat.mod_mod]
  exact ⟨formatC_byte 0x19#8 d, by rw [hsum]; rfl⟩

/-- LRC.CHECK returns the boolean of R174. -/
theorem exec_lrcCheck (s : State) : exec .lrcCheck s =
    .next { s with result := boolWord ((lrcValue s.lsum).setWidth 16 == s.expect), last := 0#3 } := rfl

/-- Settles O50: the zero-extended value and EXPECT are equal as numbers. -/
theorem lrcCheckCompares : Obligations.LrcCheckCompares := by
  refine ⟨rfl, fun s => ?_⟩
  have hiff : (lrcValue s.lsum).setWidth 16 = s.expect ↔ (256 - s.lsum.toNat) % 256 = s.expect.toNat := by
    rw [← BitVec.toNat_inj, BitVec.toNat_setWidth_of_le (by decide), lrcValue_toNat]
  simp only [exec_lrcCheck, boolWord, beq_iff_eq, hiff]

/-- A byte matches a 16-bit value whose high byte is 0 and whose low byte it is (R174). -/
theorem setWidth_eq_iff_bytes (b : Byte) (v : BitVec 16) :
    b.setWidth 16 = v ↔ v.extractLsb' 8 8 = 0#8 ∧ b = v.extractLsb' 0 8 := by
  constructor
  case mp =>
    rintro rfl
    exact ⟨extractLsb'_high_setWidth b, (extractLsb'_low_setWidth b).symm⟩
  case mpr =>
    rintro ⟨hhigh, rfl⟩
    conv_rhs => rw [eq_high_xor_low v, hhigh]
    exact BitVec.zero_xor.symm

/-- Where LRCV is `computeLRC` of some data, LRC.CHECK returns `checkLRC` of it and EXPECT's low byte if EXPECT's high
byte is 0, else 0 (R174, R175). -/
theorem exec_lrcCheck_of_lrcValue {data : List Byte} {t : State} (h : lrcValue t.lsum = computeLRC data) :
    exec .lrcCheck t = .next { t with
      result := if t.expect.extractLsb' 8 8 = 0#8 ∧ checkLRC data (t.expect.extractLsb' 0 8)
        then 0x00000001#32 else 0x00000000#32,
      last := 0#3 } := by
  simp only [exec_lrcCheck, h, boolWord, beq_iff_eq, setWidth_eq_iff_bytes, checkLRC]

/-- The packer's and the unpacker's commands feed nothing to the LRC engine. -/
theorem fedToLrc_of_bitCommand {i : Instr} (hi : isBitCommand i = true) : fedToLrc i = none := by
  cases i with
  | packReset | packBits k d | packFinish | unpackStart | unpackBits k => rfl
  | crcInit | crcByte d | crcCheck | lrcInit | lrcByte d | lrcCheck | ckInit | ckByte d | ckFrame => cases hi

/-- The packer and the unpacker write neither engine's register (R190). -/
theorem makes_engines_of_bitCommand {i : Instr} {s u : State} (h : Makes i s u) (hi : isBitCommand i = true) :
    u.crc = s.crc ∧ u.lsum = s.lsum := by
  cases i with
  | packReset => subst h; exact ⟨rfl, rfl⟩
  | packBits k d => rw [pushFlags_ok _ _ _ h.2]; exact ⟨rfl, rfl⟩
  | packFinish =>
    obtain ⟨v, n, hflush, hpublish⟩ := h
    rw [flushPartial_eq (partialFits_of_flushPartial hflush)] at hflush
    cases hflush
    cases hpublish
    exact ⟨rfl, rfl⟩
  | unpackStart => obtain ⟨-, n, -, -, rfl⟩ := h; exact ⟨rfl, rfl⟩
  | unpackBits k => obtain ⟨-, r, -, rfl⟩ := h; exact ⟨rfl, rfl⟩
  | crcInit | crcByte d | crcCheck | lrcInit | lrcByte d | lrcCheck | ckInit | ckByte d | ckFrame => cases hi

/-- A command that does not seed LSUM adds to it the byte it feeds, if it feeds one (R173, R190). -/
theorem makes_lsum {i : Instr} {s u : State} (h : Makes i s u) (hi : seedsLrc i = false) :
    u.lsum = s.lsum + (fedToLrc i).toList.sum := by
  cases i with
  | lrcByte d | ckByte d => subst h; exact congrArg (s.lsum + ·) List.sum_singleton.symm
  | crcInit | crcByte d | crcCheck | lrcCheck => exact (makes_lsum_of_crc h (by simp [partOf])).trans (add_zero _).symm
  | packReset | packBits k d | packFinish | unpackStart | unpackBits k =>
    exact (makes_engines_of_bitCommand h rfl).2.trans (add_zero _).symm
  | lrcInit | ckInit | ckFrame => cases hi

theorem exec_lsum {i : Instr} {s t : State} (h : exec i s = .next t) (hi : seedsLrc i = false) :
    t.lsum = s.lsum + (fedToLrc i).toList.sum := by
  obtain ⟨e, he, rfl⟩ | ⟨u, hu, rfl⟩ := exec_cases h
  · rw [fedToLrc_of_bitCommand (isBitCommand_of_raises he)]
    exact (add_zero s.lsum).symm
  · exact (State.completed_lsum u).trans (makes_lsum hu hi)

/-- Over commands that do not seed it, LSUM grows by the sum of the bytes they feed (R175). -/
theorem execAll_lsum {is : List Instr} {s t : State} (h : execAll is s = .next t)
    (his : ∀ i ∈ is, seedsLrc i = false) : t.lsum = s.lsum + (is.filterMap fedToLrc).sum := by
  induction is generalizing s with
  | nil => cases h; exact (add_zero _).symm
  | cons i is ih =>
    obtain ⟨hi, his⟩ := List.forall_mem_cons.1 his
    obtain ⟨u, hu, ht⟩ := (andThen_next_iff _ _ _).1 h
    have hcons : (i :: is).filterMap fedToLrc = (fedToLrc i).toList ++ is.filterMap fedToLrc := by
      rw [List.filterMap_cons]
      cases fedToLrc i <;> rfl
    rw [ih ht his, exec_lsum hu hi, hcons, List.sum_append, add_assoc]

/-- A command that feeds the LRC engine completes in every state (R81, R173, R192). -/
theorem exec_lrcFeed_served {i : Instr} (h : (fedToLrc i).isSome = true) (s : State) : ∃ t, exec i s = .next t := by
  cases i with
  | lrcByte d | ckByte d => exact ⟨_, rfl⟩
  | packReset | packBits k d | packFinish | unpackStart | unpackBits k => cases h
  | crcInit | crcByte d | crcCheck | lrcInit | lrcCheck | ckInit | ckFrame => cases h

/-- Commands that each complete in every state complete in order. -/
theorem execAll_served {is : List Instr} (h : ∀ i ∈ is, ∀ s, ∃ t, exec i s = .next t) (s : State) :
    ∃ t, execAll is s = .next t := by
  induction is generalizing s with
  | nil => exact ⟨s, rfl⟩
  | cons i is ih =>
    obtain ⟨hi, his⟩ := List.forall_mem_cons.1 h
    obtain ⟨u, hu⟩ := hi s
    obtain ⟨t, ht⟩ := ih his u
    exact ⟨t, (andThen_next_iff _ _ _).2 ⟨u, hu, ht⟩⟩

/-- Settles O51: from each of the three starts LSUM is the sum of the bytes fed, and LRCV its negation. -/
theorem lrcMatchesComputeLrc : Obligations.LrcMatchesComputeLrc := by
  refine ⟨rfl, fun s is his => ⟨fun t ht => ?_,
    fun hfeeds => execAll_served (fun i hi => exec_lrcFeed_served (hfeeds i hi)) _⟩⟩
  have hstart : ∃ r : State, r.lsum = 0x00#8 ∧ execAll is r = .next t := by
    obtain ⟨hseed, h⟩ | h | h := ht
    · exact ⟨s, hseed, h⟩
    · exact ⟨_, rfl, h⟩
    · exact ⟨_, rfl, h⟩
  obtain ⟨r, hseed, hrun⟩ := hstart
  have hsum : t.lsum = (is.filterMap fedToLrc).sum := by
    rw [execAll_lsum hrun his, hseed]
    exact zero_add _
  have hvalue : lrcValue t.lsum = computeLRC (is.filterMap fedToLrc) := by rw [computeLRC_eq_lrcValue, hsum]
  exact ⟨by rw [sumMod256_eq_sum, hsum], hvalue, exec_lrcCheck_of_lrcValue hvalue⟩

end Sys2Proof.Machine
end

section
/-! SUPPORT. What CK.BYTE and CK.FRAME make of both engines, and the checks after them (spec/43_controller.md R192 to
R194; O54 to O56). -/

namespace Sys2Proof.Machine

/-- Settles O54: the byte reaches the two engines one after the other, and LAST is 0 in the end either way. -/
theorem ckByteFeedsBoth : Obligations.CkByteFeedsBoth :=
  fun _ d => ⟨formatC_byte 0x21#8 d, rfl, rfl⟩

/-- `s` with the bytes of `data` fed to both engines, in order (R192, R193). -/
def State.feedAll (data : List Byte) (s : State) : State :=
  { s with crc := data.foldl crcNext s.crc, lsum := s.lsum + data.sum }

theorem feedAll_nil (s : State) : s.feedAll [] = s := by
  simp only [State.feedAll, List.foldl_nil, List.sum_nil, add_zero]

theorem feedAll_cons (d : Byte) (data : List Byte) (s : State) :
    s.feedAll (d :: data) = (s.feedBoth d).feedAll data := by
  simp only [State.feedAll, List.foldl_cons, List.sum_cons, ← add_assoc]
  rfl

/-- From the seeds, feeding gives both reference values (R140, R170, R191). -/
theorem feedAll_seedEngines (data : List Byte) (s : State) :
    s.seedEngines.feedAll data = { s with crc := computeCRC data, lsum := data.sum } := by
  have hsum : 0x00#8 + data.sum = data.sum := zero_add data.sum
  simp only [State.feedAll, State.seedEngines, hsum, computeCRC_eq_foldl]

/-- The loop of R193 feeds the bytes the frame buffer holds. -/
theorem feedFrame_of_holds {f : List Byte} {i : Nat} {s : State} (h : s.fbuf.holds i f)
    (hi : i + f.length ≤ Config.fbufBytes) : feedFrame f.length i s = .ok (s.feedAll f) := by
  induction f generalizing i s with
  | nil => rw [feedAll_nil]; rfl
  | cons b f ih =>
    obtain ⟨hb, hf⟩ := Memory.holds_cons h
    rw [List.length_cons] at hi
    have hread : fbufRead s i = .ok b := (fbufRead_ok_iff s i b).2 ⟨by omega, hb⟩
    rw [List.length_cons, feedFrame, hread, ok_bind, feedAll_cons]
    exact ih hf (by omega)

/-- The loop of R193 ends well only where every byte it reads is written. -/
theorem feedFrame_reads {n i : Nat} {s t : State} (h : feedFrame n i s = .ok t) :
    ∀ j, i ≤ j → j < i + n → s.fbuf.read j ≠ none := by
  induction n generalizing i s with
  | zero => omega
  | succ n ih =>
    obtain ⟨b, hb, hrest⟩ := bind_ok h
    obtain ⟨-, hread⟩ := (fbufRead_ok_iff s i b).1 hb
    intro j hij hj
    obtain rfl | hlt := hij.eq_or_lt
    · simp [hread]
    · exact ih hrest j hlt (by omega)

/-- CK.FRAME of a frame that lies in the buffer (R193). -/
theorem exec_ckFrame {s : State} {f : List Byte} (hlen : f.length = s.flen.toNat) (hle : s.flen.toNat ≤ 256)
    (h : s.fbuf.holds 0 f) :
    exec .ckFrame s = .next { s with crc := computeCRC f, lsum := f.sum, last := 0#3 } := by
  have hfed : feedFrame s.flen.toNat 0 s.seedEngines = .ok (s.seedEngines.feedAll f) := by
    rw [← hlen] at hle ⊢
    exact feedFrame_of_holds h (by rwa [Nat.zero_add])
  rw [feedAll_seedEngines] at hfed
  exact congrArg complete hfed

/-- CK.FRAME of a frame with an unwritten byte faults on one (R34, R193). -/
theorem exec_ckFrame_unwritten {s : State} (hle : s.flen.toNat ≤ 256)
    (h : ∃ i, i < s.flen.toNat ∧ s.fbuf.read i = none) :
    ∃ i, i < s.flen.toNat ∧ s.fbuf.read i = none ∧ exec .ckFrame s = .fault (.unwrittenByte i) := by
  obtain ⟨i, hi, hnone⟩ := h
  cases hfed : feedFrame s.flen.toNat 0 s.seedEngines with
  | ok t => exact absurd hnone (feedFrame_reads hfed i i.zero_le (by rwa [Nat.zero_add]))
  | error f =>
    obtain ⟨j, -, hj, hread⟩ := feedFrame_error _ _ _ _ hfed
    rw [Nat.zero_add] at hj
    obtain ⟨-, hunwritten, rfl⟩ | ⟨hout, -⟩ := (fbufRead_error_iff _ _ _).1 hread
    · exact ⟨j, hj, hunwritten, congrArg complete hfed⟩
    · exact absurd (hj.trans_le hle) (Nat.not_lt_of_le hout)

/-- Settles O55: the loop feeds the frame to the seeded engines, and faults on an unwritten byte where there is one. -/
theorem ckFrameComputesBoth : Obligations.CkFrameComputesBoth := by
  refine ⟨rfl, fun s hle => ⟨fun f hlen hholds => ?_, exec_ckFrame_unwritten hle⟩⟩
  rw [exec_ckFrame hlen hle hholds, sumMod256_eq_sum, BitVec.ofNat_toNat, BitVec.setWidth_eq]

/-- Commands that feed one byte each feed the bytes they were made from, in order. -/
theorem filterMap_map_feed {feed : Byte → Instr} {fed : Instr → Option Byte} (h : ∀ d, fed (feed d) = some d)
    (f : List Byte) : (f.map feed).filterMap fed = f := by
  rw [List.filterMap_map, show fed ∘ feed = some from funext h, List.filterMap_some]

/-- CK.INIT and CK.BYTE of each byte leave both reference values (R191, R192). -/
theorem execAll_ckBytes {f : List Byte} {s t : State} (h : execAll (.ckInit :: f.map .ckByte) s = .next t) :
    t.crc = computeCRC f ∧ t.lsum = f.sum := by
  have hrun : execAll (f.map .ckByte) s.seedEngines.completed = .next t := h
  have hcrc := execAll_crc hrun (by simp [seedsCrc])
  have hlsum := execAll_lsum hrun (by simp [seedsLrc])
  rw [filterMap_map_feed fun _ => rfl] at hcrc hlsum
  exact ⟨hcrc.trans (computeCRC_eq_foldl f).symm, hlsum.trans (zero_add f.sum)⟩

/-- Settles O56: either way the registers hold the reference values, which the checks compare with EXPECT. -/
theorem controllerMatchesReference : Obligations.ControllerMatchesReference := by
  refine fun s f => ⟨?_, fun t ht => ?_⟩
  · exact execAll_feeds_served (is := f.map .ckByte) (by simp [fedToCrc]) s.seedEngines.completed
  · have hregs : t.crc = computeCRC f ∧ t.lsum = f.sum := by
      obtain ⟨hlen, hle, hholds, h⟩ | h := ht
      · rw [exec_ckFrame hlen hle hholds] at h
        cases h
        exact ⟨rfl, rfl⟩
      · exact execAll_ckBytes h
    obtain ⟨hcrc, hlsum⟩ := hregs
    have hvalue : lrcValue t.lsum = computeLRC f := by rw [hlsum, computeLRC_eq_lrcValue]
    refine ⟨hcrc, hvalue, ?_, exec_lrcCheck_of_lrcValue hvalue⟩
    rw [exec_crcCheck, hcrc]
    rfl

end Sys2Proof.Machine
end

section
/-! SUPPORT. When a frame's trailer brings the registers to 0 (spec/43_controller.md R195; O57). -/

namespace Sys2Proof.Machine

/-- The high byte brought down. -/
theorem ushiftRight_eight_eq (v : BitVec 16) : v >>> 8 = (v.extractLsb' 8 8).setWidth 16 := by
  refine BitVec.eq_of_getLsbD_eq fun i hi => ?_
  by_cases h : i < 8
  · simp [h, hi]
  · simp [h, hi, BitVec.getLsbD_of_ge v (8 + i) (by omega)]

/-- The high byte of an update is the table entry's, which is zero only for the index 0 (R142, R145). -/
theorem eq_low_byte_of_crcNext_high {v : BitVec 16} {d : Byte} (h : crcNext v d >>> 8 = 0#16) :
    d = v.extractLsb' 0 8 := by
  have hdown : (v.extractLsb' 8 8).setWidth 16 >>> 8 = 0#16 := by
    rw [ushiftRight_eight_eq, extractLsb'_high_setWidth]; rfl
  rw [crcNext, BitVec.ushiftRight_xor_distrib, hdown, BitVec.zero_xor] at h
  exact (BitVec.xor_eq_zero_iff.1 (eq_zero_of_crcTable_high h)).symm

/-- Two updates end in 0 only for the register's low byte and then its high byte. -/
theorem crcNext_crcNext_eq_zero {v : BitVec 16} {lo hi : Byte} (h : crcNext (crcNext v lo) hi = 0x0000#16) :
    v.extractLsb' 0 8 = lo ∧ v.extractLsb' 8 8 = hi := by
  have hhi : hi = (crcNext v lo).extractLsb' 0 8 := eq_low_byte_of_crcNext_high (by rw [h]; rfl)
  have hdown : (crcNext v lo) >>> 8 = 0#16 := by
    rw [hhi, crcNext_low_byte] at h
    exact (ushiftRight_eight_eq _).trans h
  have hlo : lo = v.extractLsb' 0 8 := eq_low_byte_of_crcNext_high hdown
  rw [hlo, crcNext_low_byte, extractLsb'_low_setWidth] at hhi
  exact ⟨hlo.symm, hhi.symm⟩

/-- Data and two bytes have CRC 0 exactly where the bytes are the data's CRC, low byte first (R149, R195). -/
theorem computeCRC_trailer_eq_zero_iff (data : List Byte) (lo hi : Byte) :
    computeCRC (data ++ [lo, hi]) = 0x0000#16 ↔
      (computeCRC data).extractLsb' 0 8 = lo ∧ (computeCRC data).extractLsb' 8 8 = hi := by
  constructor
  case mp =>
    intro h
    rw [computeCRC_append] at h
    exact crcNext_crcNext_eq_zero h
  case mpr =>
    rintro ⟨rfl, rfl⟩
    exact crcResidueIsZero data

/-- Data and one byte sum to 0 exactly where the byte is the data's LRC (R176, R195). -/
theorem sum_trailer_eq_zero_iff (data : List Byte) (b : Byte) : (data ++ [b]).sum = 0 ↔ b = computeLRC data := by
  rw [computeLRC_eq_neg_sum, List.sum_append, List.sum_singleton, add_comm, add_eq_zero_iff_eq_neg]

/-- LRC.INIT and LRC.BYTE of each byte complete with LSUM the sum (R171 to R173). -/
theorem execAll_lrcBytes (f : List Byte) (s : State) :
    ∃ t, execAll (.lrcInit :: f.map .lrcByte) s = .next t ∧ t.lsum = f.sum := by
  obtain ⟨t, hrun⟩ := execAll_served (is := f.map .lrcByte)
    (List.forall_mem_map.2 fun _ _ => exec_lrcFeed_served rfl)
    { s with lsum := 0x00#8, last := 0#3 }
  have hlsum := execAll_lsum hrun (by simp [seedsLrc])
  rw [filterMap_map_feed fun _ => rfl] at hlsum
  exact ⟨t, hrun, hlsum.trans (zero_add f.sum)⟩

/-- Settles O57: the registers hold the values of the data with its trailer. -/
theorem frameVerificationRecipes : Obligations.FrameVerificationRecipes := by
  refine ⟨fun s data lo hi hlen hle hholds => ?_, fun s data b => ?_⟩
  · exact ⟨_, exec_ckFrame (by simpa using hlen) hle hholds, computeCRC_trailer_eq_zero_iff data lo hi⟩
  · obtain ⟨t, hrun, hlsum⟩ := execAll_lrcBytes (data ++ [b]) s
    exact ⟨t, hrun, by rw [hlsum]; exact sum_trailer_eq_zero_iff data b⟩

end Sys2Proof.Machine
end

section
/-! SUPPORT. The registers of one part of the core as no input of another part's commands (spec/43_controller.md R190;
O59). -/

namespace Sys2Proof.Machine

/-- The state with other values in the engines' registers. -/
def State.withSums (c : BitVec 16) (l : Byte) (s : State) : State := { s with crc := c, lsum := l }

/-- The state with other values in the packer's and the unpacker's registers. -/
def State.withBitRegs (a : Byte) (n : BitVec 3) (p u : BitVec 8) (q : BitVec 11) (s : State) : State :=
  { s with pacc := a, pcnt := n, pn := p, un := u, uptr := q }

/-- Completing commutes with a change of the state that leaves LAST alone (R212). -/
theorem complete_map (f : State → State) (hf : ∀ s, (f s).completed = f s.completed) (r : Except Fault State) :
    complete (r.map f) = mapNext f (complete r) := by
  cases r with
  | error e => rfl
  | ok s => exact congrArg Host.Outcome.next (hf s)

theorem pushFlags_commutes_withSums (c : BitVec 16) (l : Byte) (bs : List Bool) :
    Commutes (State.withSums c l) (pushFlags bs) := by
  intro s
  refine (pushFlags_withPackerOf bs (s.withSums c l) s).trans ?_
  cases h : pushFlags bs s with
  | error f => rfl
  | ok t => rw [pushFlags_ok bs s t h]; rfl

theorem feedFrame_commutes_withBitRegs (a : Byte) (n : BitVec 3) (p u : BitVec 8) (q : BitVec 11) (m i : Nat) :
    Commutes (State.withBitRegs a n p u q) (feedFrame m i) := by
  intro s
  refine (feedFrame_withEnginesOf m i (s.withBitRegs a n p u q) s rfl).trans ?_
  cases h : feedFrame m i s with
  | error f => rfl
  | ok t => rw [feedFrame_ok m i s t h]; rfl

theorem execPackBits_withSums (c : BitVec 16) (l : Byte) (k : Nat) (d : Byte) (s : State) :
    execPackBits k d (s.withSums c l) = mapNext (State.withSums c l) (execPackBits k d s) := by
  have hcount : (s.withSums c l).packed = s.packed := rfl
  simp only [execPackBits, hcount, pushFlags_commutes_withSums c l _ s]
  split
  case isTrue => rfl
  case isFalse => exact complete_map (State.withSums c l) (fun _ => rfl) _

/-- PACK.FINISH faults where the partial group has no place (R25, R106). -/
theorem exec_packFinish_fault {s : State} (h : ¬ s.PartialFits) :
    exec .packFinish s = .fault (.noSuchByte (1 + s.pn.toNat)) := by
  obtain ⟨hpart, hpn⟩ := Classical.not_imp.1 h
  have hout : ¬ 1 + s.pn.toNat < Config.fbufBytes := by simp only [Config.fbufBytes]; omega
  simp only [exec, execPackFinish, flushPartial, if_neg hpart, fbufWrite, if_neg hout, error_bind, complete_error]

theorem exec_packFinish_withSums (c : BitVec 16) (l : Byte) (s : State) :
    exec .packFinish (s.withSums c l) = mapNext (State.withSums c l) (exec .packFinish s) := by
  by_cases h : s.PartialFits
  · rw [exec_packFinish h, exec_packFinish (s := s.withSums c l) h]; rfl
  · rw [exec_packFinish_fault h, exec_packFinish_fault (s := s.withSums c l) h]; rfl

theorem execUnpackStart_withSums (c : BitVec 16) (l : Byte) (s : State) :
    execUnpackStart (s.withSums c l) = mapNext (State.withSums c l) (execUnpackStart s) := by
  have hflen : (s.withSums c l).flen = s.flen := rfl
  have hread : fbufRead (s.withSums c l) 0 = fbufRead s 0 := rfl
  simp only [execUnpackStart, hflen, hread]
  split
  case isTrue => rfl
  case isFalse =>
    cases fbufRead s 0 with
    | error f => rfl
    | ok n => dsimp only; split <;> rfl

theorem execUnpackBits_withSums (c : BitVec 16) (l : Byte) (k : Nat) (s : State) :
    execUnpackBits k (s.withSums c l) = mapNext (State.withSums c l) (execUnpackBits k s) := by
  have hurem : (s.withSums c l).urem = s.urem := rfl
  have huptr : (s.withSums c l).uptr = s.uptr := rfl
  have hbits : gatherBits (s.withSums c l) s.uptr.toNat k = gatherBits s s.uptr.toNat k :=
    gatherBits_congr (s := s.withSums c l) (t := s) rfl _ _
  simp only [execUnpackBits, hurem, huptr, hbits]
  split
  case isTrue => rfl
  case isFalse => cases gatherBits s s.uptr.toNat k <;> rfl

/-- The packer's and the unpacker's commands do not read CRC and LSUM (R190). -/
theorem exec_withSums (c : BitVec 16) (l : Byte) {i : Instr} (hi : isBitCommand i = true) (s : State) :
    exec i (s.withSums c l) = mapNext (State.withSums c l) (exec i s) := by
  cases i with
  | packReset => rfl
  | packBits k d => exact execPackBits_withSums c l k d s
  | packFinish => exact exec_packFinish_withSums c l s
  | unpackStart => exact execUnpackStart_withSums c l s
  | unpackBits k => exact execUnpackBits_withSums c l k s
  | crcInit | crcByte d | crcCheck | lrcInit | lrcByte d | lrcCheck | ckInit | ckByte d | ckFrame => cases hi

/-- They do not write them either. -/
theorem exec_keeps_sums {i : Instr} {s t : State} (hi : isBitCommand i = true) (h : exec i s = .next t) :
    t.crc = s.crc ∧ t.lsum = s.lsum := by
  obtain ⟨e, -, rfl⟩ | ⟨u, hu, rfl⟩ := exec_cases h
  · exact ⟨rfl, rfl⟩
  · obtain ⟨hcrc, hlsum⟩ := makes_engines_of_bitCommand hu hi
    exact ⟨hcrc, hlsum⟩

/-- The checksum commands do not read the packer's and the unpacker's registers (R190). -/
theorem exec_withBitRegs (a : Byte) (n : BitVec 3) (p u : BitVec 8) (q : BitVec 11) {i : Instr}
    (hi : isBitCommand i = false) (s : State) :
    exec i (s.withBitRegs a n p u q) = mapNext (State.withBitRegs a n p u q) (exec i s) := by
  cases i with
  | packReset | packBits k d | packFinish | unpackStart | unpackBits k => cases hi
  | ckFrame =>
    exact (congrArg complete (feedFrame_commutes_withBitRegs a n p u q s.flen.toNat 0 s.seedEngines)).trans
      (complete_map (State.withBitRegs a n p u q) (fun _ => rfl) _)
  | crcInit | crcByte d | crcCheck | lrcInit | lrcByte d | lrcCheck | ckInit | ckByte d => rfl

/-- They do not write them either. -/
theorem exec_keeps_bitRegs {i : Instr} {s t : State} (hi : isBitCommand i = false) (h : exec i s = .next t) :
    t.pacc = s.pacc ∧ t.pcnt = s.pcnt ∧ t.pn = s.pn ∧ t.un = s.un ∧ t.uptr = s.uptr := by
  obtain ⟨hframe, -⟩ := checksumFrame i s t hi h
  rw [hframe]
  exact ⟨rfl, rfl, rfl, rfl, rfl⟩

/-- The CRC engine's commands do not read LSUM (R190). -/
theorem exec_crc_withLsum {i : Instr} (hi : partOf i = .crc) (s : State) (l : Byte) :
    exec i { s with lsum := l } = mapNext (fun t => { t with lsum := l }) (exec i s) := by
  cases i with
  | crcInit | crcByte d | crcCheck => rfl
  | packReset | packBits k d | packFinish | unpackStart | unpackBits k => cases hi
  | lrcInit | lrcByte d | lrcCheck | ckInit | ckByte d | ckFrame => cases hi

/-- The LRC engine's commands do not read CRC (R190). -/
theorem exec_lrc_withCrc {i : Instr} (hi : partOf i = .lrc) (s : State) (c : BitVec 16) :
    exec i { s with crc := c } = mapNext (fun t => { t with crc := c }) (exec i s) := by
  cases i with
  | lrcInit | lrcByte d | lrcCheck => rfl
  | packReset | packBits k d | packFinish | unpackStart | unpackBits k => cases hi
  | crcInit | crcByte d | crcCheck | ckInit | ckByte d | ckFrame => cases hi

/-- Settles O59: for each pair of parts, one's registers are neither read nor written by the other's commands. -/
theorem enginesAreIndependent : Obligations.EnginesAreIndependent :=
  ⟨fun _ s c l hi => ⟨exec_withSums c l hi s, fun _ => exec_keeps_sums hi⟩,
    fun _ s a n p u q hi => ⟨exec_withBitRegs a n p u q hi s, fun _ => exec_keeps_bitRegs hi⟩,
    fun _ s l hi => exec_crc_withLsum hi s l, fun _ s c hi => exec_lrc_withCrc hi s c⟩

end Sys2Proof.Machine
end

section
/-! SUPPORT. The outcome a command or an access reports in STATUS, and what leaves STATUS alone
(spec/60_exceptions.md R212 to R217, R230; O10, O25, O26, O27). -/

namespace Sys2Proof.Machine

/-- Settles O10: with nothing pending the step is the idle one. -/
theorem idleHoldsState : Obligations.IdleHoldsState := fun _ => step_idle

/-- Settles O27: a word that does not decode has no other outcome, and the empty frame is found before any byte is
read. -/
theorem errorPriority : Obligations.ErrorPriority :=
  ⟨fun _ _ s hd => execute_error hd s, fun s m hempty => exec_unpackStart_empty (s := { s with fbuf := m }) hempty⟩

/-- PACK.BITS raises PackOverflow only (R214). -/
theorem eq_of_raises_packBits {k : Nat} {d : Byte} {s : State} {e : ErrorCode} (h : Raises (.packBits k d) s e) :
    e = .packOverflow := by
  cases e with
  | packOverflow => rfl
  | emptyInput | inputTooShort | unpackUnderrun | illegalCommand => exact h.elim

/-- UNPACK.START raises EmptyInput and InputTooShort only (R214). -/
theorem eq_of_raises_unpackStart {s : State} {e : ErrorCode} (h : Raises .unpackStart s e) :
    e = .emptyInput ∨ e = .inputTooShort := by
  cases e with
  | emptyInput => exact .inl rfl
  | inputTooShort => exact .inr rfl
  | packOverflow | unpackUnderrun | illegalCommand => exact h.elim

/-- UNPACK.BITS raises UnpackUnderrun only (R214). -/
theorem eq_of_raises_unpackBits {k : Nat} {s : State} {e : ErrorCode} (h : Raises (.unpackBits k) s e) :
    e = .unpackUnderrun := by
  cases e with
  | unpackUnderrun => rfl
  | emptyInput | inputTooShort | packOverflow | illegalCommand => exact h.elim

/-- Settles O26: LAST is the code of an error the command can raise, or 0 where it completes. -/
theorem errorsOfEachCommand : Obligations.ErrorsOfEachCommand := by
  refine ⟨fun i s t h => ?_, fun _ _ s hd => ⟨_, execute_error hd s, rfl⟩⟩
  obtain ⟨e, he, rfl⟩ | ⟨u, -, rfl⟩ := exec_cases h
  · cases i with
    | packBits k d => obtain rfl := eq_of_raises_packBits he; exact .inr rfl
    | unpackStart =>
      obtain rfl | rfl := eq_of_raises_unpackStart he
      · exact .inr (.inl rfl)
      · exact .inr (.inr rfl)
    | unpackBits k => obtain rfl := eq_of_raises_unpackBits he; exact .inr rfl
    | packReset | packFinish | crcInit | crcByte d | crcCheck => exact he.elim
    | lrcInit | lrcByte d | lrcCheck | ckInit | ckByte d | ckFrame => exact he.elim
  · cases i with
    | packBits k d | unpackStart | unpackBits k => exact .inl rfl
    | packReset | packFinish | crcInit | crcByte d | crcCheck => rfl
    | lrcInit | lrcByte d | lrcCheck | ckInit | ckByte d | ckFrame => rfl

/-- The state a command makes has the sticky bits it started with (R212). -/
theorem makes_err {i : Instr} {s u : State} (h : Makes i s u) : u.err = s.err := by
  cases i with
  | packReset => subst h; rfl
  | packBits k d => rw [pushFlags_ok _ _ _ h.2]
  | packFinish =>
    obtain ⟨v, n, hflush, hpublish⟩ := h
    rw [flushPartial_eq (partialFits_of_flushPartial hflush)] at hflush
    cases hflush
    cases hpublish
    rfl
  | unpackStart => obtain ⟨-, n, -, -, rfl⟩ := h; rfl
  | unpackBits k => obtain ⟨-, r, -, rfl⟩ := h; rfl
  | crcInit | crcByte d | crcCheck | lrcInit | lrcByte d | lrcCheck | ckInit | ckByte d | ckFrame =>
    rw [makes_checksum_frame rfl h]

/-- A CMD write that answers a next state has completed with the sticky bits kept, or raised one error (R212, R213). -/
theorem execute_outcome {w : Word} {s t : State} (h : execute w s = .next t) :
    (t.last = 0#3 ∧ t.err = s.err) ∨ ∃ e : ErrorCode, t = s.raised e := by
  cases hd : decode w with
  | ok i =>
    rw [execute_ok hd] at h
    obtain ⟨e, -, rfl⟩ | ⟨u, hu, rfl⟩ := exec_cases h
    · exact .inr ⟨e, rfl⟩
    · exact .inl ⟨rfl, (State.completed_err u).trans (makes_err hu)⟩
  | error r =>
    rw [execute_error hd] at h
    cases h
    exact .inr ⟨.illegalCommand, rfl⟩

theorem one_le_code (e : ErrorCode) : 1 ≤ e.code.toNat := by cases e <;> decide

/-- The error action in terms of the number of its code (R211, R213). -/
theorem raised_eq (e : ErrorCode) (s : State) : s.raised e =
    { s with err := s.err ||| (1#5 <<< (e.code.toNat - 1)), last := BitVec.ofNat 3 e.code.toNat } := by
  rw [BitVec.ofNat_toNat, BitVec.setWidth_eq]
  rfl

/-- A write outside CMD leaves LAST alone (R212). -/
theorem hostWrite_last {off : Nat} {w : Word} {s t : State} (hoff : off ≠ 0x000) (h : hostWrite off w s = .next t) :
    t.last = s.last := by
  obtain ⟨-, hwin⟩ | ⟨hcmd, -⟩ | ⟨-, rfl⟩ | ⟨-, rfl⟩ | ⟨-, rfl⟩ | rfl := hostWrite_cases off w s t h
  · rw [windowWrite_ok _ _ _ _ hwin]
  · exact absurd hcmd hoff
  · rfl
  · rfl
  · rfl
  · rfl

/-- Settles O25: a CMD write by the outcomes of Execute, a read by its one effect, and the other writes by their
registers. -/
theorem commandsReportOneOutcome : Obligations.CommandsReportOneOutcome := by
  refine ⟨fun w s t h => ?_, fun s t off width h => ?_, fun s t off width w hoff h => ?_⟩
  · obtain hdone | ⟨e, rfl⟩ := execute_outcome h
    · exact .inl hdone
    · exact .inr ⟨e.code.toNat, one_le_code e, code_le_five e, raised_eq e s⟩
  · obtain ⟨v, rfl, -⟩ := readsHaveNoSideEffect s t off width h
    exact ⟨rfl, rfl⟩
  · obtain ⟨_, _, _, he, -⟩ | ⟨_, _, _, he, -, hwrite⟩ | ⟨_, he, -⟩ := perform_cases _ s t h
    · cases he
    · cases he
      exact hostWrite_last hoff hwrite
    · cases he

end Sys2Proof.Machine
end

section
/-! SUPPORT. The reset event: the values it leaves, what reads and commands make of them, and the accesses it refuses
(spec/70_reset_and_hazards.md R240, R241, R245; O11 to O13). -/

namespace Sys2Proof.Machine

/-- The reset event sets the input's level and resets the core (R240, R241). -/
theorem perform_reset (held : Bool) (s : State) :
    perform (.reset held) s = .next (State.resetCore { s with resetHeld := held }) := rfl

theorem resetHeld_of_perform_reset {held : Bool} {s t : State} (h : perform (.reset held) s = .next t) :
    t.resetHeld = held := by
  rw [perform_reset] at h
  cases h
  rfl

theorem computeCRC_nil : computeCRC [] = Config.crcSeed := computeCRC_eq_foldl []

theorem computeLRC_nil : computeLRC [] = 0#8 := computeLRC_eq_neg_sum []

/-- Settles O11: the reset event resets the core, and State.reset is itself a core just reset. -/
theorem resetLeavesResetValues : Obligations.ResetLeavesResetValues := by
  unfold Obligations.ResetLeavesResetValues
  intro resetValues
  have hcore : ∀ s : State, resetValues s.resetCore := fun s =>
    ⟨rfl, rfl, rfl, rfl, rfl, rfl, rfl, rfl, rfl, rfl, rfl, rfl, Memory.read_nil, computeCRC_nil.symm,
      (computeLRC_eq_lrcValue []).symm⟩
  exact ⟨hcore State.reset, fun s held => ⟨_, perform_reset held s, hcore _⟩⟩

theorem hostRead_crc (s : State) : hostRead 0x018 s = .ok (s.crc.setWidth 32) := rfl

theorem hostRead_lrc (s : State) : hostRead 0x01C s = .ok s.lrcWord := rfl

/-- The packer's session is empty at reset (R245). -/
theorem reset_packEmpty : State.reset.PackEmpty := ⟨rfl, rfl, rfl⟩

/-- PACK.FINISH of an empty session publishes `pack` of no flags (R106, R107). -/
theorem exec_packFinish_of_packEmpty {s : State} (h : s.PackEmpty) :
    ∃ t, exec .packFinish s = .next t ∧ t.flen = 1#9 ∧ t.fbuf.holds 0 (pack []) := by
  have hacc : s.Accumulated [] := accumulated_nil h
  have hcount : s.frameCount = 0 := frameCount_of_accumulated hacc
  refine ⟨_, exec_packFinish (partialFits_of_accumulated hacc (Nat.zero_le _)), ?_, finished_holds_pack hacc⟩
  rw [State.completed_flen, State.finished, hcount]

/-- Settles O12: the engines' registers hold their seeds, the packer's session is empty, and no bit is latched for the
unpacker. -/
theorem resetGivesEmptySequences : Obligations.ResetGivesEmptySequences := by
  obtain ⟨t, ht, hflen, hholds⟩ := exec_packFinish_of_packEmpty reset_packEmpty
  refine ⟨hostRead_crc _, computeCRC_nil, hostRead_lrc _, computeLRC_nil, ⟨t, ht, hflen, rfl, hholds⟩,
    fun k hk _ => ?_⟩
  have hpast : 8 * State.reset.un.toNat < State.reset.uptr.toNat + k := Nat.lt_add_left _ hk
  exact exec_unpackBits_underrun hk hpast

/-- While reset is asserted an access is refused for that, whatever else is wrong with it (R241). -/
theorem accessProblem_of_resetHeld {s : State} (h : s.resetHeld = true) (off : Nat) (width : AccessWidth) :
    accessProblem off width s = some .accessDuringReset := if_pos h

/-- Settles O13: the event leaves the reset input at its level; held, the input is tested before anything else, and
released, an aligned 32-bit access in the window has no problem. -/
theorem accessDuringResetIsRefused : Obligations.AccessDuringResetIsRefused := by
  intro s t ht
  have hheld := accessProblem_of_resetHeld (resetHeld_of_perform_reset ht)
  refine ⟨fun off width => (perform_read_refused_iff ..).2 (hheld off width),
    fun off width w => (perform_write_refused_iff ..).2 (hheld off width), fun u hu off ha hoff r w => ?_⟩
  have hnone : accessProblem off .word u = none :=
    accessProblem_eq_none (resetHeld_of_perform_reset hu) ha (Nat.lt_of_le_of_lt hoff (by decide))
  simp only [ne_eq, perform_read_refused_iff, perform_write_refused_iff, hnone, reduceCtorEq, not_false_eq_true,
    and_self]

end Sys2Proof.Machine
end
